-- ==== Sys2Proof/Word.lean ====
section
/-! DEFINITION. The word types of the block (spec/00_scope.md R7): bytes and 24-bit flash addresses. -/

namespace Sys2Proof

/-- A byte is 8 bits, an unsigned value 0..255 (R7). -/
abbrev Byte := BitVec 8

/-- A FlashAddress: "a 24-bit unsigned offset into the chip's linear address space" (R13, R22). -/
abbrev FlashAddr := BitVec 24

end Sys2Proof
end

