-- ==== Sys2Proof/Config.lean ====
section
/-! DEFINITION. The parameters of an instance (spec/00_scope.md R6) and the free values: constants
without a body for everything the spec leaves to the environment. -/

namespace Sys2Proof.Config

/-- `PAGE_SIZE`: bytes in a Page, fixed (R6). -/
abbrev pageSize : Nat := 256

/-- The number of addresses of the flash space, `2^24` (R34, R67). -/
abbrev flashSpace : Nat := 16777216

/-- `BUSY_MASK`, fixed (R6). -/
abbrev busyMask : Byte := 0x01#8

/-- `STATUS_PLACEHOLDER`, fixed (R6). -/
abbrev statusPlaceholder : Byte := 0x00#8

/-- `MAX_POLLS` (R6, R172): a positive natural, or `inf`, the baseline's unbounded loop (C1). -/
inductive PollBound where
  /-- no bound -/
  | inf
  /-- `MAX_POLLS = extra + 1`: positive by construction -/
  | upTo (extra : Nat)
  deriving DecidableEq, Repr, Inhabited

/-- The poll test's `POLLCNT >= MAX_POLLS`, "never true when MAX_POLLS = inf" (R171). -/
def PollBound.reached : PollBound → Nat → Bool
  | .inf, _ => false
  | .upTo extra, count => extra + 1 ≤ count

/-- The parameters of an instance (R6): fixed before the first operation and never written (R28).
`sectorSize` and `capacity` are the chip's, "never read by the block" (R6, R68). -/
structure Params where
  guardCycles : Nat
  maxPolls : PollBound
  hostAddrWidth : Nat
  lenWidth : Nat
  dummyByte : Byte
  sectorSize : Nat
  capacity : Nat
  deriving DecidableEq, Repr

/-- The bounds R6 puts on the open parameters, and the chip's capacity within the flash space. -/
abbrev Params.wf (p : Params) : Prop :=
  24 ≤ p.hostAddrWidth ∧ 9 ≤ p.lenWidth ∧ p.capacity ≤ flashSpace

/-- `GUARD_CYCLES` of the instance: open, no default (R6, N3; log 2). -/
opaque guardCycles : Nat

/-- `MAX_POLLS` of the instance: open, no default (R6, N4; log 2). -/
opaque maxPolls : PollBound

/-- `SECTOR_SIZE` of the chip: open, "4096 typical" (R6, U5; log 2). -/
opaque sectorSize : Nat

/-- The chip's capacity, at most the flash space: open (R68, N7; log 2). -/
opaque chipCapacity : Fin 16777217

/-- The parameters of the instance that `State.reset` shows: the spec's defaults for the two port
widths and the dummy byte (R6, D5, D6, D7; log 1, 18), free values for the rest (log 2). -/
def instanceParams : Params where
  guardCycles := guardCycles
  maxPolls := maxPolls
  hostAddrWidth := 32
  lenWidth := 16
  dummyByte := 0x00#8
  sectorSize := sectorSize
  capacity := chipCapacity.val

/-- Whether the transport faults its `n`-th transfer call: the environment's choice (R9; log 9). -/
opaque xferFault : Nat → Bool

/-- Whether a busy chip has completed by the `n`-th transfer call: the chip's choice (R76; log 13). -/
opaque chipDone : Nat → Bool

/-- Byte `i` received in the `n`-th transfer call where nothing fixes it: a draw (R9, U13; log 9). -/
opaque rxByte : Nat → Nat → Byte

/-- The content of flash byte `a` that nothing fixes, for the chip's count `e` of such occasions (P1's `F0`;
log 11). -/
opaque flashByte : Nat → Nat → Byte

/-- `WEL` where nothing fixes it, for the chip's count `e` (R45, R77; log 12, 14). -/
opaque chipWel : Nat → Bool

/-- `CBUSY` where nothing fixes it, for the chip's count `e` (R45, R77; log 12, 14). -/
opaque chipBusy : Nat → Bool

end Sys2Proof.Config
end

