-- ==== Sys2Proof/Syntax.lean ====
section
/-! DEFINITION. The instructions: one constructor per row of spec/opcode_table.json, in the table's
order. Two layers (spec/00_scope.md R2): the five wire commands, and the five host operations. -/

namespace Sys2Proof

/-- The five host operations as the latch `OP` names them (spec/10_state.md R21). -/
inductive Op where
  | read
  | writeEnable
  | sectorErase
  | pageProgram
  | readStatus
  deriving DecidableEq, Repr

/-- The Command Framer's argument, "a tagged value" of five (spec/41_command_framer.md R150). The
address is any unsigned number, as R156 defines the framer for "an argument of any width". -/
inductive Command where
  | read (addr : Nat)
  | writeEnable
  | status
  | sectorErase (addr : Nat)
  | pageProgram (addr : Nat)
  deriving DecidableEq, Repr

/-- The instructions. A wire command carries the 24-bit address of its frame; a host operation carries
every field of its request word, the unused ones too ("ignored, whatever they hold", R40), and
`pageProgram` the payload bytes that follow the word. -/
inductive Instr where
  | pageProgramCmd (addr : FlashAddr)
  | readCmd (addr : FlashAddr)
  | readStatusCmd
  | writeEnableCmd
  | sectorEraseCmd (addr : FlashAddr)
  | read (addr len : Nat)
  | writeEnable (addr len : Nat)
  | sectorErase (addr len : Nat)
  | pageProgram (addr len : Nat) (payload : List Byte)
  | readStatus (addr len : Nat)
  deriving DecidableEq, Repr

/-- What the host presents at the request port (spec/30_encoding.md R106): the word
`{req_op, req_addr, req_len}` as a number, op in the top three bits, and the payload byte stream. -/
structure PortWord where
  word : Nat
  payload : List Byte
  deriving DecidableEq, Repr

/-- An encoded instruction: bytes on the wire, or a request at the host port. -/
inductive Code where
  | wire (bytes : List Byte)
  | port (w : PortWord)
  deriving DecidableEq, Repr

end Sys2Proof
end

