-- ==== Sys2Proof/WellFormed.lean ====
section
/-! DEFINITION. Well-formed instructions: the fields fit the request port of the instance
(spec/10_state.md R40, spec/30_encoding.md R106). -/

namespace Sys2Proof

open Config

/-- The request word's two fields fit their widths (R40). -/
def fieldsFit (p : Params) (addr len : Nat) : Bool :=
  decide (addr < 2 ^ p.hostAddrWidth) && decide (len < 2 ^ p.lenWidth)

/-- A wire command's 24-bit address always fits; a request's fields fit the port's widths, and a
program request has `len(payload) == len` (R40). -/
def WellFormed (p : Params) : Instr → Bool
  | .pageProgramCmd _ => true
  | .readCmd _ => true
  | .readStatusCmd => true
  | .writeEnableCmd => true
  | .sectorEraseCmd _ => true
  | .read addr len => fieldsFit p addr len
  | .writeEnable addr len => fieldsFit p addr len
  | .sectorErase addr len => fieldsFit p addr len
  | .pageProgram addr len payload => fieldsFit p addr len && decide (payload.length = len)
  | .readStatus addr len => fieldsFit p addr len

end Sys2Proof
end

