-- ==== Sys2Proof/Decode.lean ====
section
/-! DEFINITION. The Command Framer (spec/41_command_framer.md R150 to R157), the decoders of the two
layers (spec/30_encoding.md R101 to R107), total on any input and rejecting by name, and the encoders. -/

namespace Sys2Proof

open Config

/-! ### The framer -/

/-- `addr3` (R156): the low 24 bits of an unsigned number of any width, most significant byte first. -/
def addr3 (a : Nat) : List Byte :=
  [BitVec.ofNat 8 (a / 65536), BitVec.ofNat 8 (a / 256), BitVec.ofNat 8 a]

/-- `decode3` (R157), on three bytes; any other list decodes as 0 and is used nowhere. -/
def decode3 : List Byte → Nat
  | [b2, b1, b0] => b2.toNat * 65536 + b1.toNat * 256 + b0.toNat
  | _ => 0

/-- `0x02` (R155). -/
def opPageProgram : Byte := 0x02#8
/-- `0x03` (R151). -/
def opRead : Byte := 0x03#8
/-- `0x05` (R153). -/
def opReadStatus : Byte := 0x05#8
/-- `0x06` (R152). -/
def opWriteEnable : Byte := 0x06#8
/-- `0x20` (R154). -/
def opSectorErase : Byte := 0x20#8

/-- `frame` (R150 to R155): the bytes "to transmit before any data payload". -/
def frame : Command → List Byte
  | .read a => opRead :: addr3 a
  | .writeEnable => [opWriteEnable]
  | .status => [opReadStatus]
  | .sectorErase a => opSectorErase :: addr3 a
  | .pageProgram a => opPageProgram :: addr3 a

/-- The five opcode bytes, the only ones the block sends first (R104). -/
def isOpcode (b : Byte) : Bool :=
  b == opPageProgram || b == opRead || b == opReadStatus || b == opWriteEnable || b == opSectorErase

/-! ### Decoding -/

/-- Why a decoder rejects its input. -/
inductive DecodeError where
  /-- no byte at all -/
  | noBytes
  /-- the first byte is "not a command of this block" (R104) -/
  | notACommand (b : Byte)
  /-- an addressed command without its three address bytes, or a status read without its placeholder -/
  | truncated (b : Byte)
  /-- the byte after 0x05 is not the placeholder 0x00 (R101, R105) -/
  | badPlaceholder (b : Byte)
  /-- `req_op` 101, 110 or 111 (R107) -/
  | reservedOp (code : Nat)
  /-- a request word wider than the port -/
  | wordTooWide
  /-- a program request whose payload is not `len` bytes long (R40) -/
  | payloadLength
  deriving DecidableEq, Repr

/-- The three address bytes after an addressed opcode (R101, R103), and the rest of the bytes. -/
def decodeAddressed (op : Byte) (mk : FlashAddr → Instr) : List Byte → Except DecodeError (Instr × List Byte)
  | b2 :: b1 :: b0 :: rest => .ok (mk (BitVec.ofNat 24 (decode3 [b2, b1, b0])), rest)
  | _ => .error (.truncated op)

/-- The placeholder after 0x05 (R101 T2). -/
def decodeStatus : List Byte → Except DecodeError (Instr × List Byte)
  | b :: rest => if b = statusPlaceholder then .ok (.readStatusCmd, rest) else .error (.badPlaceholder b)
  | [] => .error (.truncated opReadStatus)

/-- The wire decoder: the command whose bytes come first, and the bytes after its frame (R101, R104). -/
def decodeWire : List Byte → Except DecodeError (Instr × List Byte)
  | [] => .error .noBytes
  | op :: rest =>
    if op = opPageProgram then decodeAddressed op .pageProgramCmd rest
    else if op = opRead then decodeAddressed op .readCmd rest
    else if op = opReadStatus then decodeStatus rest
    else if op = opWriteEnable then .ok (.writeEnableCmd, rest)
    else if op = opSectorErase then decodeAddressed op .sectorEraseCmd rest
    else .error (.notACommand op)

/-- The operation a `req_op` code selects (R106); 5, 6, 7 are reserved (R107). -/
def decodeOp (code addr len : Nat) (payload : List Byte) : Except DecodeError Instr :=
  match code with
  | 0 => .ok (.read addr len)
  | 1 => .ok (.writeEnable addr len)
  | 2 => .ok (.sectorErase addr len)
  | 3 => if payload.length = len then .ok (.pageProgram addr len payload) else .error .payloadLength
  | 4 => .ok (.readStatus addr len)
  | 5 => .error (.reservedOp 5)
  | 6 => .error (.reservedOp 6)
  | 7 => .error (.reservedOp 7)
  | _ => .error .wordTooWide

/-- The request decoder (R106): `{req_op[2:0], req_addr, req_len}`, op in the top three bits. -/
def decodeRequest (p : Params) (w : PortWord) : Except DecodeError Instr :=
  decodeOp (w.word / 2 ^ (p.hostAddrWidth + p.lenWidth)) (w.word / 2 ^ p.lenWidth % 2 ^ p.hostAddrWidth)
    (w.word % 2 ^ p.lenWidth) w.payload

/-- The decoder of both layers. Bytes after a wire command's frame are its data phase, not its own. -/
def decode (p : Params) : Code → Except DecodeError Instr
  | .wire bytes => (decodeWire bytes).map Prod.fst
  | .port w => decodeRequest p w

/-! ### Encoding -/

/-- The request word of R106 from its three fields. -/
def requestWord (p : Params) (code addr len : Nat) : Nat :=
  (code * 2 ^ p.hostAddrWidth + addr) * 2 ^ p.lenWidth + len

/-- The encoder, from R101 (wire) and R106 (host). -/
def encode (p : Params) : Instr → Code
  | .pageProgramCmd a => .wire (frame (.pageProgram a.toNat))
  | .readCmd a => .wire (frame (.read a.toNat))
  | .readStatusCmd => .wire (frame .status ++ [statusPlaceholder])
  | .writeEnableCmd => .wire (frame .writeEnable)
  | .sectorEraseCmd a => .wire (frame (.sectorErase a.toNat))
  | .read addr len => .port ⟨requestWord p 0 addr len, []⟩
  | .writeEnable addr len => .port ⟨requestWord p 1 addr len, []⟩
  | .sectorErase addr len => .port ⟨requestWord p 2 addr len, []⟩
  | .pageProgram addr len payload => .port ⟨requestWord p 3 addr len, payload⟩
  | .readStatus addr len => .port ⟨requestWord p 4 addr len, []⟩

/-! ### The words of spec/opcode_table.json -/

/-- The first four bytes of a table word laid out on the wire, bit 0 the least significant bit of the
first byte. -/
def tableBytes (w : Nat) : List Byte :=
  [BitVec.ofNat 8 w, BitVec.ofNat 8 (w / 256), BitVec.ofNat 8 (w / 65536), BitVec.ofNat 8 (w / 16777216)]

/-- A request with a given `req_op`, operand bits zero and no payload. -/
def tableRequest (p : Params) (code : Nat) : Code := .port ⟨requestWord p code 0 0, []⟩

/-- The code a table word of `nbits` bits stands for. The table numbers a wire row's bits from its
first byte and a host row's bits inside `req_op` alone (its `match_applies_to`), so one byte can mean
either; the row that fixes all eight bits, the wire row, comes first (log 6). A word of more than 32
bits can only be a request: `req_op` alone where it is below 8, else the whole word of R106. -/
def tableCode (p : Params) (nbits w : Nat) : Code :=
  if nbits ≤ 32 then
    if isOpcode (BitVec.ofNat 8 w) || decide (8 < nbits) then .wire (tableBytes w) else tableRequest p (w % 8)
  else if w < 8 then tableRequest p w
  else .port ⟨w, []⟩

/-- The instruction the decoder reads from a word of spec/opcode_table.json (the bits above `nbits`
are 0), with the default port widths. -/
def decodeTableWord (nbits w : Nat) : Option Instr :=
  (decode instanceParams (tableCode instanceParams nbits (w % 2 ^ nbits))).toOption

end Sys2Proof
end

