-- ==== Sys2Proof/Machine/State.lean ====
section
/-! DEFINITION. The state of the block and of its surroundings (spec/10_state.md), plain data, and the
state after reset (R45). -/

namespace Sys2Proof.Machine

open Config

/-- The flash array as a list of its known bytes. Canonical form: addresses strictly rising, inside the
flash space. An unlisted address has no known content (log 11). -/
abbrev Memory := List Host.Cell

/-- `PHASE` (R25). -/
inductive Phase where
  | idle
  | selected
  | transmitting
  | deselected
  | polling
  | ready
  deriving DecidableEq, Repr

/-- `SEQ` (R25): the index of the next micro-operation in the operation's micro-program, or in the
error exit E0 to E3 (spec/43_flash_driver.md R195). -/
inductive Seq where
  | main (n : Nat)
  | exit (n : Nat)
  deriving DecidableEq, Repr

/-- The select-line level (R30): low selects the chip (spec/40_chip_select.md R136). -/
inductive Level where
  | low
  | high
  deriving DecidableEq, Repr

/-- `ERR` (R31, spec/60_exceptions.md R220). -/
inductive Err where
  | ok
  | timeout
  | busFault
  | invalidLength
  deriving DecidableEq, Repr

/-- A host request (R40). -/
structure Request where
  op : Op
  addr : Nat
  len : Nat
  payload : List Byte
  deriving DecidableEq, Repr

/-- A response (R41). `status` is none where it "has no meaning" (log 19). -/
structure Response where
  err : Err
  data : List Byte
  status : Option Byte
  deriving DecidableEq, Repr

/-- The events of the trace (spec/00_scope.md R9, R10), and `reset`, the model's marker of the reset
input (log 16). -/
inductive Event where
  | delay (n : Nat)
  | cs (level : Level)
  | xfer (tx rx : List Byte)
  | xferFault (tx : List Byte)
  | req (r : Request)
  | rsp (r : Response)
  | reset
  deriving DecidableEq, Repr

/-- What the chip is busy with (spec/20_memory.md R72, R73): the work done when its busy condition
ends. `unknown` is a busy chip whose work the model does not know (log 12); `doubtful` is the work of an
operation that has failed, which leaves any value in its range (R65, R267; log 14). -/
inductive Work where
  | unknown
  | erase (addr : Nat)
  | program (addr : Nat) (data : List Byte)
  | doubtful (addr len : Nat)
  deriving DecidableEq, Repr

/-- The flash chip (spec/20_memory.md R70): FLASH, WEL and CBUSY, its work under way, the bytes it has
received in the bracket under way, whether a fault has cut that bracket short and its effect is already
in the state, the epoch naming its unknown contents, the count `fresh` of the occasions free values were
taken, and whether the contract R71 to R76 still binds it (R77). -/
structure Chip where
  flash : Memory
  epoch : Nat
  fresh : Nat
  wel : Bool
  cbusy : Bool
  work : Work
  rx : List Byte
  cut : Bool
  conforms : Bool
  deriving DecidableEq, Repr

/-- The environment's answer to one transfer call (R9, R14): a fault or not, whether a busy chip has
completed by then, and the received bytes where nothing else fixes them (log 9). -/
structure Answer where
  fault : Bool
  done : Bool
  rx : List Byte
  deriving DecidableEq, Repr

/-- What the outside may do between two steps of the block (log 8, 13, 16). -/
inductive Outside where
  /-- the reset input (spec/70_reset_and_hazards.md R260) -/
  | reset
  /-- a request presented for this moment only (R42) -/
  | present (w : PortWord)
  /-- the chip completes its work (spec/20_memory.md R76) -/
  | chipDone
  deriving DecidableEq, Repr

/-- An outside event, due when the block has taken `after` more steps. -/
structure Timed where
  after : Nat
  what : Outside
  deriving DecidableEq, Repr

/-- The state: the instance's parameters (R6, constants), the operand latches (R20 to R24), the control
state (R25), the status registers (R28 to R33), the two ends of the host port (R40, R41, R44), the
chip (R35), and the environment's inputs and the trace (R10), which are the model's own fields. -/
structure State where
  params : Params
  op : Op
  addr : FlashAddr
  len : Nat
  pagebuf : List Byte
  phase : Phase
  seq : Seq
  cs : Level
  status : Byte
  err : Err
  pollcnt : Nat
  gcnt : Nat
  rdata : List Byte
  rsp : Option Response
  host : List PortWord
  chip : Chip
  answers : List Answer
  draws : Nat
  async : List Timed
  trace : List Event
  deriving DecidableEq, Repr

/-- The machine's own stops. No instruction's meaning raises one. -/
inductive Fault where
  /-- Raised by the sequencer in a state no run reaches, whose SEQ lies outside the micro-program of
  OP (R26: "SEQ never exceeds its length"). Safe: the model stops where the spec gives no step. -/
  | noMicroOperation
  deriving DecidableEq, Repr

/-- Why an instruction has no meaning. -/
inductive Refusal where
  /-- Raised by exec's arm of an instruction that has no meaning yet; no arm raises it in this model.
  Safe. -/
  | notModelled (mnemonic : String)
  deriving DecidableEq, Repr

/-- The chip at power-on: contents, WEL and busy condition are not known (R45; N2: do not assume "that
the chip is idle after reset"; log 11, 12). -/
def Chip.powerOn : Chip where
  flash := []
  epoch := 0
  fresh := 0
  wel := chipWel 0
  cbusy := chipBusy 0
  work := .unknown
  rx := []
  cut := false
  conforms := true

/-- The Page that PAGEBUF holds after reset (log 3). -/
def blankPage : List Byte := List.replicate pageSize 0x00#8

/-- The machine right after reset (R45). OP, ADDR, LEN, PAGEBUF and STATUS are "unspecified" there: the
values here are named in log 3. -/
def State.reset : State where
  params := instanceParams
  op := .read
  addr := 0#24
  len := 0
  pagebuf := blankPage
  phase := .idle
  seq := .main 0
  cs := .high
  status := 0x00#8
  err := .ok
  pollcnt := 0
  gcnt := 0
  rdata := []
  rsp := none
  host := []
  chip := Chip.powerOn
  answers := []
  draws := 0
  async := []
  trace := [.reset, .cs .high]

end Sys2Proof.Machine
end

