-- ==== Sys2Proof/Machine/Memory.lean ====
section
/-! DEFINITION. The flash array as data (spec/20_memory.md R67, R70): reading one byte, replacing a run
of bytes, and the canonical form. -/

namespace Sys2Proof.Machine

open Config

/-- The known content of one address; none where nothing is known of it. -/
def Memory.get? : Memory → Nat → Option Byte
  | [], _ => none
  | c :: rest, a => if c.1 = a then some c.2 else Memory.get? rest a

/-- Consecutive cells from `base` up. -/
def Memory.cells : Nat → List Byte → Memory
  | _, [] => []
  | base, b :: rest => (base, b) :: Memory.cells (base + 1) rest

/-- `MemWrite(base, n, v)` (R70): the bytes from `base` up are replaced, all others stay. -/
def Memory.put (m : Memory) (base : Nat) (bytes : List Byte) : Memory :=
  m.filter (fun c => decide (c.1 < base)) ++ Memory.cells base bytes
    ++ m.filter (fun c => decide (base + bytes.length ≤ c.1))

/-- The canonical form: addresses strictly rising, each inside the flash space. -/
abbrev Memory.wf (m : Memory) : Prop :=
  m.Pairwise (fun c d => c.1 < d.1) ∧ ∀ c ∈ m, c.1 < flashSpace

end Sys2Proof.Machine
end

