-- ==== Sys2Proof/Machine/Chip.lean ====
section
/-! DEFINITION. The flash chip under the environment contract (spec/20_memory.md R70 to R77): what it
returns in a bracket, what a finished bracket does, and how it completes. -/

namespace Sys2Proof.Machine

open Config

/-- The content of a flash byte: the known one, else the free value of the chip's epoch (log 11). -/
def Chip.byteAt (c : Chip) (a : Nat) : Byte := (c.flash.get? a).getD (flashByte c.epoch a)

/-- `MemRead(a, n)` (R70). -/
def Chip.memRead (c : Chip) (a n : Nat) : List Byte := (List.range n).map (fun i => c.byteAt (a + i))

/-- All of FLASH becomes unknown. -/
def Chip.forget (c : Chip) : Chip := { c with flash := [], epoch := c.fresh + 1, fresh := c.fresh + 1 }

/-- The `n` bytes from `a` up become any value, "until rewritten" (93 U3; log 14): free values, written. -/
def Chip.scramble (a n : Nat) (c : Chip) : Chip :=
  { c with
    flash := c.flash.put a ((List.range n).map (fun i => flashByte (c.fresh + 1) (a + i)))
    fresh := c.fresh + 1 }

/-- Outside the contract (R77): "the chip's resulting FLASH, WEL, CBUSY and returned bytes are any
value", from now on (93 U2; log 10). -/
def Chip.lose (c : Chip) : Chip :=
  { c.forget with
    wel := chipWel (c.fresh + 1), cbusy := chipBusy (c.fresh + 1), work := .unknown, conforms := false }

/-- The bytes of a page after a program (R73): `FLASH[a+i] & d[i]`. -/
def Chip.programmed (c : Chip) : Nat → List Byte → List Byte
  | _, [] => []
  | a, d :: rest => (c.byteAt a &&& d) :: Chip.programmed c (a + 1) rest

/-- The work's effect on FLASH (R72: every byte of the sector becomes 0xFF; R73). -/
def Chip.doWork (p : Params) (c : Chip) : Chip :=
  match c.work with
  | .unknown => c.forget
  | .erase a => { c with flash := c.flash.put a (List.replicate p.sectorSize 0xFF#8) }
  | .program a d => { c with flash := c.flash.put a (c.programmed a d) }
  | .doubtful a n => c.scramble a n

/-- The chip completes (R72, R73, R76): the work takes effect, then `WEL <- 0` and `CBUSY <- 0`. A chip
that is not busy has nothing to complete. -/
def Chip.complete (p : Params) (c : Chip) : Chip :=
  if c.conforms then
    if c.cbusy then { c.doWork p with wel := false, cbusy := false, work := .unknown } else c
  else c.lose

/-- The range of addresses a known work concerns, as its first address and its length (R72, R73). -/
def Work.range (p : Params) : Work → Option (Nat × Nat)
  | .unknown => none
  | .erase a => some (a, p.sectorSize)
  | .program a d => some (a, d.length)
  | .doubtful a n => some (a, n)

/-- A destructive operation on the unit of `n` bytes at `a` has failed: "any value for every byte of the
affected page or sector, until rewritten; the chip may also still be busy" (93 U3; R65, R267; log 14), and
then with work that leaves any value there. A unit that is not aligned or not within capacity, or a chip
busy elsewhere, is outside the contract (R77). -/
def Chip.doubt (p : Params) (a n : Nat) (c : Chip) : Chip :=
  if c.conforms && decide (a % n = 0) && decide (a + n ≤ p.capacity)
      && (!c.cbusy || c.work.range p == some (a, n)) then
    { c.scramble a n with work := .doubtful a n }
  else c.lose

/-- The first byte that a unit of `n` bytes containing address `a` can have: `a` itself where it is aligned;
else "which bytes contain `a` ... is not stated" (R72), and it is any from `a + 1 - n` up (log 16). -/
def unitFirst (a n : Nat) : Nat := if a % n = 0 then a else a + 1 - n

/-- A destructive operation on the unit of `n` bytes at `a` was cut short before the chip saw its command
(spec/70_reset_and_hazards.md R267): every byte within capacity that the unit can have becomes any value,
and nothing else changes (spec/10_state.md R45; log 16). -/
def Chip.spoil (p : Params) (a n : Nat) (c : Chip) : Chip :=
  c.scramble (unitFirst a n) (min (a + n) p.capacity - unitFirst a n)

/-- The chip after the transport has faulted a call of `tx` in its bracket. In a destructive operation,
whose unit is given, the unit's contents, WEL and CBUSY become any value (93 U3; log 14), and what the rest
of the bracket does is in that. A bracket of any other operation ended early, or a command to a busy chip,
is outside the contract (R77). -/
def Chip.faulted (p : Params) (unit : Option (Nat × Nat)) (tx : List Byte) (c : Chip) : Chip :=
  match unit with
  | some (a, n) =>
    if c.cbusy = false ∨ (c.rx ++ tx).head? = some opReadStatus then
      { c.doubt p a n with wel := chipWel (c.fresh + 1), cbusy := chipBusy (c.fresh + 1), cut := true }
    else c.lose
  | none => c.lose

/-- The address in the three bytes after the opcode of a transaction (R72: `a2*65536 + a1*256 + a0`). -/
def Chip.headAddr (sent : List Byte) : Nat := decode3 ((sent.drop 1).take 3)

/-- The status byte (R75): bit 0 is CBUSY, "bits 7:1 are not defined" (drawn). -/
def statusByte (busy : Bool) (noise : Byte) : Byte :=
  (noise &&& 0xFE#8) ||| (if busy then 0x01#8 else 0x00#8)

/-- The byte returned during exchange number `pos` of a transaction whose bytes up to the end of the
call are `sent` (R74, R75); drawn where the contract gives none. -/
def Chip.replyAt (p : Params) (c : Chip) (sent : List Byte) (pos : Nat) (noise : Byte) : Byte :=
  if c.conforms then
    if sent.head? = some opRead then
      if 4 ≤ pos ∧ c.cbusy = false ∧ Chip.headAddr sent + (pos - 4) < p.capacity then
        c.byteAt (Chip.headAddr sent + (pos - 4))
      else noise
    else if sent.head? = some opReadStatus ∧ pos = 1 then statusByte c.cbusy noise
    else noise
  else noise

/-- The bytes returned during one transfer call inside a bracket, one per byte sent. -/
def Chip.reply (p : Params) (c : Chip) (noise : Nat → Byte) (tx : List Byte) : List Byte :=
  (List.range tx.length).map (fun i => c.replyAt p (c.rx ++ tx) (c.rx.length + i) (noise i))

/-- Whether a transaction that has got as far as `sent` lies outside the contract (R77): one that goes on
after a fault has cut it, an opcode that is none of the five, a command other than Read Status while busy,
a read at or past the capacity. -/
def Chip.breaks (p : Params) (c : Chip) (sent : List Byte) : Bool :=
  match sent with
  | [] => false
  | op :: _ =>
    c.cut || !isOpcode op
      || (op != opReadStatus && c.cbusy)
      || (op == opRead && decide (4 ≤ sent.length)
          && (decide (p.capacity ≤ Chip.headAddr sent)
              || decide (p.capacity < Chip.headAddr sent + (sent.length - 4))))

/-- The chip after a transfer call of `tx` inside a bracket. -/
def Chip.receive (p : Params) (c : Chip) (tx : List Byte) : Chip :=
  if c.breaks p (c.rx ++ tx) then { c.lose with rx := c.rx ++ tx } else { c with rx := c.rx ++ tx }

/-- A destructive command is inside the contract (R72, R73, R77): WEL set, the address a multiple of
the unit, the whole unit within capacity. -/
def Chip.accepts (p : Params) (c : Chip) (a unit : Nat) : Bool :=
  c.wel && !c.cbusy && decide (a % unit = 0) && decide (a + unit ≤ p.capacity)

/-- What a finished transaction does (R71 to R75); anything else is outside the contract (R77; log 15). -/
def Chip.finish (p : Params) (c : Chip) : Chip :=
  match c.rx with
  | [op] => if op = opWriteEnable then { c with wel := true } else c.lose
  | [op, _] => if op = opReadStatus then c else c.lose
  | op :: a2 :: a1 :: a0 :: d =>
    if op = opRead then c
    else if op = opSectorErase ∧ d = [] ∧ c.accepts p (decode3 [a2, a1, a0]) p.sectorSize then
      { c with cbusy := true, work := .erase (decode3 [a2, a1, a0]) }
    else if op = opPageProgram ∧ d.length = pageSize ∧ c.accepts p (decode3 [a2, a1, a0]) pageSize then
      { c with cbusy := true, work := .program (decode3 [a2, a1, a0]) d }
    else c.lose
  | _ => c.lose

/-- The select line goes high: the transaction ends (R100; becoming busy here: log 13). One that a fault
has cut has had its effect. -/
def Chip.endBracket (p : Params) (c : Chip) : Chip :=
  { (if c.conforms then if c.cut then c else c.finish p else c.lose) with rx := [], cut := false }

/-- The select line goes low: a transaction begins. -/
def Chip.beginBracket (c : Chip) : Chip := { c with rx := [], cut := false }

/-- What the chip sees of a level driven on its select line, active low (spec/40_chip_select.md R136). -/
def Chip.onSelect (p : Params) (c : Chip) : Level → Chip
  | .low => c.beginBracket
  | .high => c.endBracket p

end Sys2Proof.Machine
end

