-- ==== Sys2Proof/Machine/Flags.lean ====
section
/-! DEFINITION. The three single-bit conditions (spec/10_state.md R27), the length check and the bound
test: everything the sequencer branches on. -/

namespace Sys2Proof.Machine

open Config

/-- `(s & BUSY_MASK) != 0` (spec/42_status_poller.md R171): bit 0 alone (R29, R174). -/
def busy (status : Byte) : Bool := status &&& busyMask != 0x00#8

/-- `idle`, shown to the host as `req_ready` (R27 (2), R44). -/
def State.idle (s : State) : Bool := s.phase == .idle

/-- The chip is selected: the level last driven is low (R27 (3), R30). -/
def State.selected (s : State) : Bool := s.cs == .low

/-- `LEN == PAGE_SIZE` (spec/60_exceptions.md R223). -/
def State.lenIsPage (s : State) : Bool := s.len == pageSize

/-- The numeric code of `ERR` at the port (spec/60_exceptions.md R220, spec/30_encoding.md R108). -/
def Err.code : Err → BitVec 2
  | .ok => 0#2
  | .timeout => 1#2
  | .busFault => 2#2
  | .invalidLength => 3#2

/-- The numeric code of `OP` at the port (spec/30_encoding.md R106). -/
def opCode : Op → BitVec 3
  | .read => 0b000#3
  | .writeEnable => 0b001#3
  | .sectorErase => 0b010#3
  | .pageProgram => 0b011#3
  | .readStatus => 0b100#3

end Sys2Proof.Machine
end

