-- ==== Sys2Proof/Machine/Micro.lean ====
section
/-! DEFINITION. The micro-programs in small-step form (spec/43_flash_driver.md R195): the list of
micro-operations of each operation and of the error exit, and PHASE as a function of the position. -/

namespace Sys2Proof.Machine

/-- The transfer calls, grouped as spec/10_state.md R43 groups them. -/
inductive Call where
  | writeEnable
  | status
  | readFrame
  | readData
  | eraseFrame
  | programFrame
  | programData
  deriving DecidableEq, Repr

/-- The micro-operations of R195: `D`, `CSL`, `CSH`, `X`, `CHK`, `P0`, `T` (with the start of the poll
bracket it branches back to), `R`. -/
inductive MicroOp where
  | delay
  | csLow
  | csHigh
  | xfer (call : Call)
  | lenCheck
  | clearPolls
  | pollTest (back : Nat)
  | respond
  deriving DecidableEq, Repr

/-- One bracket: `select()`, the calls, `deselect()` (spec/40_chip_select.md R130, R131). -/
def bracket (calls : List Call) : List MicroOp :=
  [.delay, .csLow, .delay] ++ calls.map .xfer ++ [.delay, .csHigh, .delay]

/-- R195, row `READ` (R191). -/
def readProgram : List MicroOp := bracket [.readFrame, .readData] ++ [.respond]

/-- R195, row `WRITE_ENABLE` (R192). -/
def writeEnableProgram : List MicroOp := bracket [.writeEnable] ++ [.respond]

/-- R195, row `READ_STATUS` (spec/42_status_poller.md R175). -/
def readStatusProgram : List MicroOp := bracket [.status] ++ [.respond]

/-- `wait_until_ready()` (spec/42_status_poller.md R171) with its poll bracket at `back`. -/
def waitProgram (back : Nat) : List MicroOp := [.clearPolls] ++ bracket [.status] ++ [.pollTest back]

/-- R195, row `SECTOR_ERASE` (R193). -/
def sectorEraseProgram : List MicroOp :=
  bracket [.writeEnable] ++ bracket [.eraseFrame] ++ waitProgram 15 ++ [.respond]

/-- R195, row `PAGE_PROGRAM` (R194). -/
def pageProgramProgram : List MicroOp :=
  [.lenCheck] ++ bracket [.writeEnable] ++ bracket [.programFrame, .programData] ++ waitProgram 17 ++ [.respond]

/-- R195, row error exit: E0 to E3 (spec/60_exceptions.md R226). -/
def exitProgram : List MicroOp := [.delay, .csHigh, .delay, .respond]

/-- The micro-program of an operation. -/
def program : Op → List MicroOp
  | .read => readProgram
  | .writeEnable => writeEnableProgram
  | .sectorErase => sectorEraseProgram
  | .pageProgram => pageProgramProgram
  | .readStatus => readStatusProgram

/-- The micro-operation at a position; none outside the program (R26). -/
def microAt (op : Op) : Seq → Option MicroOp
  | .main n => (program op)[n]?
  | .exit n => exitProgram[n]?

/-- `SEQ + 1` (R26). -/
def Seq.next : Seq → Seq
  | .main n => .main (n + 1)
  | .exit n => .exit (n + 1)

/-- A destructive operation has begun and its destructive bracket has not ended. A page_program at its
length check (SEQ 0, `CHK`) has not begun: that the check, before any bus activity (R223), does not count
is the model's choice, whatever LEN is (DESIGN CHOICE, log 16). -/
def commandDue (op : Op) : Seq → Bool
  | .exit _ => false
  | .main n =>
    match op with
    | .sectorErase => decide (n ≤ 12)
    | .pageProgram => decide (1 ≤ n) && decide (n ≤ 14)
    | .read => false
    | .writeEnable => false
    | .readStatus => false

/-- A destructive command has been sent and polling has not finished (spec/70_reset_and_hazards.md R261). -/
def commandPending (op : Op) : Seq → Bool
  | .exit _ => false
  | .main n =>
    match op with
    | .sectorErase => decide (13 ≤ n) && decide (n ≤ 22)
    | .pageProgram => decide (15 ≤ n) && decide (n ≤ 24)
    | .read => false
    | .writeEnable => false
    | .readStatus => false

/-- PHASE of a one-bracket operation whose last transfer call stands at `last`. -/
def bracketPhase (last n : Nat) : Phase :=
  if n ≤ 2 then .selected else if n ≤ last then .transmitting else .deselected

/-- PHASE as a function of the position (R195), for an operation in progress. -/
def phaseAt (op : Op) : Seq → Phase
  | .exit _ => .deselected
  | .main n =>
    match op with
    | .read => bracketPhase 4 n
    | .writeEnable => bracketPhase 3 n
    | .readStatus => bracketPhase 3 n
    | .sectorErase =>
      if n ≤ 6 then bracketPhase 3 n
      else if n ≤ 13 then bracketPhase 3 (n - 7)
      else if n ≤ 22 then .polling else .ready
    | .pageProgram =>
      if n = 0 then .selected
      else if n ≤ 7 then bracketPhase 3 (n - 1)
      else if n ≤ 15 then bracketPhase 4 (n - 8)
      else if n ≤ 24 then .polling else .ready

end Sys2Proof.Machine
end

