-- ==== Sys2Proof/Machine/Operands.lean ====
section
/-! DEFINITION. The operand forms: how a request's fields become the latches (spec/10_state.md R22,
R23, R24, R40), and the bytes each transfer call sends (spec/30_encoding.md R101, R105). -/

namespace Sys2Proof.Machine

open Config

/-- `trunc_24(req.addr)` (R22, R40). -/
def truncAddr (addr : Nat) : FlashAddr := BitVec.ofNat 24 addr

/-- The length field as the port carries it, `LEN_WIDTH` bits (R23, R40). -/
def portLen (p : Params) (len : Nat) : Nat := len % 2 ^ p.lenWidth

/-- `PAGEBUF` at acceptance (R24, R40): the payload of a program request of exactly one Page, else as it
was. (A well-formed request has `len(payload) == len`; log 21.) -/
def acceptPage (p : Params) (r : Request) (old : List Byte) : List Byte :=
  if r.op = .pageProgram ∧ portLen p r.len = pageSize ∧ r.payload.length = pageSize then r.payload else old

/-- `rep(DUMMY_BYTE, LEN)` (R191, R105). -/
def State.dummies (s : State) : List Byte := List.replicate s.len s.params.dummyByte

/-- The status exchange, `frame(Status) ++ [STATUS_PLACEHOLDER]` (spec/42_status_poller.md R170). -/
def statusExchange : List Byte := frame .status ++ [statusPlaceholder]

/-- The wire command a transfer call belongs to, as the bytes that open its transaction (R100, R101):
what the sequencer puts before the wire decoder. -/
def Call.opening (a : FlashAddr) : Call → List Byte
  | .writeEnable => frame .writeEnable
  | .status => statusExchange
  | .readFrame => frame (.read a.toNat)
  | .readData => frame (.read a.toNat)
  | .eraseFrame => frame (.sectorErase a.toNat)
  | .programFrame => frame (.pageProgram a.toNat)
  | .programData => frame (.pageProgram a.toNat)

/-- The unit of flash that a destructive operation concerns, as its first address and its length
(spec/20_memory.md R64): the sector or the page at ADDR. -/
def State.unit (s : State) : Option (Nat × Nat) :=
  match s.op with
  | .sectorErase => some (s.addr.toNat, s.params.sectorSize)
  | .pageProgram => some (s.addr.toNat, pageSize)
  | .read => none
  | .writeEnable => none
  | .readStatus => none

/-- The second transfer call of T4+P and T4+L is next: the data phase (R43, R101). -/
def State.inDataPhase (s : State) : Bool :=
  match microAt s.op s.seq with
  | some (.xfer .readData) => true
  | some (.xfer .programData) => true
  | _ => false

end Sys2Proof.Machine
end

