-- ==== Sys2Proof/Machine/Ops.lean ====
section
/-! DEFINITION. The named operations over the state: events, control, the select line, transfer calls,
raising an error and the response that ends an operation. -/

namespace Sys2Proof.Machine

open Config

/-- Appends one event to the trace (spec/00_scope.md R9, R10). -/
def State.emit (e : Event) (s : State) : State := { s with trace := s.trace ++ [e] }

/-- Control goes to position `q` (spec/10_state.md R25, R26): SEQ and the PHASE of R195. A guard delay
there is loaded into GCNT (R33). -/
def State.goTo (q : Seq) (s : State) : State :=
  { s with
    seq := q
    phase := phaseAt s.op q
    gcnt := if microAt s.op q = some MicroOp.delay then s.params.guardCycles else s.gcnt }

/-- The micro-operation completes: `SEQ <- SEQ + 1` (R26). -/
def State.advance (s : State) : State := s.goTo s.seq.next

/-! ### Requests and responses -/

/-- `HostAccept` (R40), performed in one step and only when `PHASE == Idle`; at any other time the
request "changes no state, causes no event, and is neither queued nor answered" (R42). -/
def State.accept (r : Request) (s : State) : State :=
  if s.idle then
    ({ s with
        op := r.op
        addr := truncAddr r.addr
        len := portLen s.params r.len
        pagebuf := acceptPage s.params r s.pagebuf
        err := .ok
        rdata := []
        rsp := none }.emit (.req r)).goTo (.main 0)
  else s

/-- The response of the operation in progress (R41, spec/60_exceptions.md R226): the read data when
`read` ends `OK`, the status byte when `read_status` does. -/
def State.response (s : State) : Response where
  err := s.err
  data := if s.err = .ok ∧ s.op = .read then s.rdata else []
  status := if s.err = .ok ∧ s.op = .readStatus then some s.status else none

/-- `R`: `HostRespond`, then `PHASE <- Idle` (R26, R41; SEQ stays, log 20). -/
def State.respond (s : State) : State :=
  { s with rsp := some s.response, phase := .idle }.emit (.rsp s.response)

/-- `raise E` (spec/60_exceptions.md R226), the block's trap entry: `ERR <- E`, and control goes to the
error exit, at E0 when `CS == low` (the bracket is closed by a full `deselect()`), at E3 when it is
high (R195). Nothing else is saved or changed. -/
def State.raise (e : Err) (s : State) : State :=
  { s with err := e }.goTo (.exit (if s.selected then 0 else 3))

/-! ### The select line and the guard delay -/

/-- `SetSelect(level)` and `CS <- level` (R130, R131); the chip sees its bracket begin or end. -/
def State.setSelect (l : Level) (s : State) : State :=
  { s with
    cs := l
    chip := s.chip.onSelect s.params l }.emit (.cs l)

/-- One clock cycle of `Delay(G)`: GCNT is decremented, "the delay ending when it reaches 0" (R33), and
then the event `D(G)` is complete (R132; log 4). -/
def State.delayCycle (s : State) : State :=
  if s.gcnt = 0 then (s.emit (.delay s.params.guardCycles)).advance else { s with gcnt := s.gcnt - 1 }

/-! ### Transfer calls -/

/-- The environment's answer to the `j`-th transfer call from now: the scripted one, else free values
(R9, R14; log 9). -/
def State.answerAt (s : State) (j : Nat) : Answer :=
  s.answers.getD j ⟨xferFault (s.draws + j), chipDone (s.draws + j), []⟩

/-- Byte `i` received in the next call where the chip contract gives none: a draw (R9; log 9). -/
def State.noise (s : State) (i : Nat) : Byte := (s.answerAt 0).rx.getD i (rxByte s.draws i)

/-- The chip as the next call finds it: a busy chip may have completed by then (R76; log 13). -/
def State.chipAtCall (s : State) : Chip :=
  if (s.answerAt 0).done then s.chip.complete s.params else s.chip

/-- The bytes the next call receives: what the selected chip returns (R74, R75), draws otherwise. -/
def State.received (s : State) (tx : List Byte) : List Byte :=
  if s.selected then s.chipAtCall.reply s.params s.noise tx else (List.range tx.length).map s.noise

/-- The state in which the answer to one call has been taken. -/
def State.takeAnswer (s : State) : State :=
  { s with answers := s.answers.tail, draws := s.draws + 1 }

/-- A transfer call that is carried out: the selected chip receives the bytes, event `X(tx, rx)`. -/
def State.exchanged (tx : List Byte) (s : State) : State :=
  { s.takeAnswer with
    chip := if s.selected then s.chipAtCall.receive s.params tx else s.chipAtCall }.emit
    (.xfer tx (s.received tx))

/-- The data of a destructive operation that fails with the line high is in doubt (spec/20_memory.md R65,
spec/70_reset_and_hazards.md R267; log 14). -/
def State.doubt (s : State) : State :=
  match s.unit with
  | some (a, n) => { s with chip := s.chip.doubt s.params a n }
  | none => s

/-- A transfer call the transport faults: event `XF(tx)`; what the selected chip made of the call is not
known (R65, R77; log 14). -/
def State.faulted (tx : List Byte) (s : State) : State :=
  { s.takeAnswer with
    chip := if s.selected then s.chipAtCall.faulted s.params s.unit tx else s.chipAtCall }.emit (.xferFault tx)

/-- `Xfer(tx) or raise BusFault` (R9, spec/43_flash_driver.md): `andThen` gets the received bytes. -/
def State.xfer (tx : List Byte) (andThen : List Byte → State → State) (s : State) : State :=
  if (s.answerAt 0).fault then (s.faulted tx).raise .busFault
  else andThen (s.received tx) (s.exchanged tx)

/-! ### The checks -/

/-- `CHK`: `InvalidLength` "before any bus activity" (spec/60_exceptions.md R223). -/
def State.lenCheck (s : State) : State :=
  if s.lenIsPage then s.advance else s.raise .invalidLength

/-- `P0`: `POLLCNT <- 0` (spec/42_status_poller.md R171). -/
def State.clearPolls (s : State) : State := { s with pollcnt := 0 }.advance

/-- `T`: count the iteration, then success before the bound, else round again (R171, R224). A Timeout
leaves the operation's data in doubt and the chip perhaps busy (spec/70_reset_and_hazards.md R267). -/
def State.pollTest (back : Nat) (s : State) : State :=
  let s' := { s with pollcnt := s.pollcnt + 1 }
  if busy s.status then
    if s.params.maxPolls.reached s'.pollcnt then s'.doubt.raise .timeout else s'.goTo (.main back)
  else s'.advance

/-! ### Reset -/

/-- The chip of an operation cut short before its command, its unit holding any value (R267; log 16). -/
def State.spoiledChip (s : State) : Chip :=
  match s.unit with
  | some (a, n) => s.chip.spoil s.params a n
  | none => s.chip

/-- The chip after the reset input, which does not touch it (R261). A transaction cut short is outside its
contract (R261), and so is a chip with a destructive command pending (93 U16: "any value"); a destructive
operation cut short before its command was sent leaves any value in its unit and no more (R267; log 16). -/
def State.chipAfterReset (s : State) : Chip :=
  if s.selected then { s.chip.lose with rx := [], cut := false }
  else if s.chip.cbusy || (!s.idle && commandPending s.op s.seq) then s.chip.lose
  else if !s.idle && commandDue s.op s.seq then s.spoiledChip
  else s.chip

/-- The reset input (spec/70_reset_and_hazards.md R260, R261): the block's registers take the values of
R45, the line is driven high, no wire command is sent, no response is given. -/
def State.resetInput (s : State) : State :=
  { State.reset with
    params := s.params
    host := s.host
    chip := s.chipAfterReset
    answers := s.answers
    draws := s.draws
    async := s.async
    trace := s.trace ++ [.reset, .cs .high] }

end Sys2Proof.Machine
end

