-- ==== Sys2Proof/Machine/Wire.lean ====
section
/-! DEFINITION. The five wire commands (spec/41_command_framer.md, spec/30_encoding.md R101): their
transfer calls inside the bracket. A transport fault raises BusFault in each (R222). -/

namespace Sys2Proof.Machine

abbrev Result := Host.Outcome State Fault Refusal

/-- WRITE_ENABLE_CMD, T1: `X([06])`, the received byte discarded (R152, R192). -/
def execWriteEnableCmd (s : State) : Result :=
  .next (s.xfer (frame .writeEnable) (fun _ t => t.advance))

/-- READ_STATUS_CMD, T2: `X([05, 00])` as one call; STATUS gets the second received byte (R153, R170). -/
def execReadStatusCmd (s : State) : Result :=
  .next (s.xfer statusExchange (fun rx t => { t with status := rx.getD 1 0x00#8 }.advance))

/-- SECTOR_ERASE_CMD, T4: `X([20, aa, bb, cc])` (R154, R193). -/
def execSectorEraseCmd (a : FlashAddr) (s : State) : Result :=
  .next (s.xfer (frame (.sectorErase a.toNat)) (fun _ t => t.advance))

/-- READ_CMD, T4+L: the 4-byte frame in one call, its received bytes discarded, then LEN dummy bytes in
a second, whose received bytes are the data; no second call when LEN is 0 (R151, R191, R195). -/
def execReadCmd (a : FlashAddr) (s : State) : Result :=
  if s.inDataPhase then .next (s.xfer s.dummies (fun rx t => { t with rdata := rx }.advance))
  else
    .next (s.xfer (frame (.read a.toNat))
      (fun _ t => if t.len = 0 then t.goTo t.seq.next.next else t.advance))

/-- PAGE_PROGRAM_CMD, T4+P: the 4-byte frame in one call, then exactly the 256 bytes of PAGEBUF in a
second, PAGEBUF[0] first; received bytes discarded (R155, R194). -/
def execPageProgramCmd (a : FlashAddr) (s : State) : Result :=
  if s.inDataPhase then .next (s.xfer s.pagebuf (fun _ t => t.advance))
  else .next (s.xfer (frame (.pageProgram a.toNat)) (fun _ t => t.advance))

end Sys2Proof.Machine
end

