-- ==== Sys2Proof/Machine/HostOps.lean ====
section
/-! DEFINITION. The five host operations: a request is accepted (spec/10_state.md R40) and its
micro-program (Machine/Micro.lean, spec/43_flash_driver.md R195) begins; the sequencer runs it. -/

namespace Sys2Proof.Machine

/-- READ (R191): uses addr and len; runs `readProgram`. -/
def execRead (addr len : Nat) (s : State) : Result := .next (s.accept ⟨.read, addr, len, []⟩)

/-- WRITE_ENABLE (R192): uses no operand; runs `writeEnableProgram`. -/
def execWriteEnable (addr len : Nat) (s : State) : Result := .next (s.accept ⟨.writeEnable, addr, len, []⟩)

/-- SECTOR_ERASE (R193): uses addr; runs `sectorEraseProgram`. -/
def execSectorErase (addr len : Nat) (s : State) : Result := .next (s.accept ⟨.sectorErase, addr, len, []⟩)

/-- PAGE_PROGRAM (R194): uses addr, len and the payload; runs `pageProgramProgram`, whose first
micro-operation is the length check. -/
def execPageProgram (addr len : Nat) (payload : List Byte) (s : State) : Result :=
  .next (s.accept ⟨.pageProgram, addr, len, payload⟩)

/-- READ_STATUS (spec/42_status_poller.md R175): uses no operand; runs `readStatusProgram`. -/
def execReadStatus (addr len : Nat) (s : State) : Result := .next (s.accept ⟨.readStatus, addr, len, []⟩)

end Sys2Proof.Machine
end

