-- ==== Sys2Proof/Machine/Dispatch.lean ====
section
/-! DEFINITION. One arm per instruction of spec/opcode_table.json. -/

namespace Sys2Proof.Machine

def exec (i : Instr) (s : State) : Host.Outcome State Fault Refusal :=
  match i with
  | .pageProgramCmd a => Sys2Proof.Machine.execPageProgramCmd a s
  | .readCmd a => Sys2Proof.Machine.execReadCmd a s
  | .readStatusCmd => Sys2Proof.Machine.execReadStatusCmd s
  | .writeEnableCmd => Sys2Proof.Machine.execWriteEnableCmd s
  | .sectorEraseCmd a => Sys2Proof.Machine.execSectorEraseCmd a s
  | .read addr len => Sys2Proof.Machine.execRead addr len s
  | .writeEnable addr len => Sys2Proof.Machine.execWriteEnable addr len s
  | .sectorErase addr len => Sys2Proof.Machine.execSectorErase addr len s
  | .pageProgram addr len payload => Sys2Proof.Machine.execPageProgram addr len payload s
  | .readStatus addr len => Sys2Proof.Machine.execReadStatus addr len s

end Sys2Proof.Machine
end

