-- ==== Sys2Proof/Machine/Sequencer.lean ====
section
/-! DEFINITION. The sequencer: one micro-operation, one step of the block, one outside event, and where
an instruction's code is placed for the next step. -/

namespace Sys2Proof.Machine

/-- One micro-operation of the operation in progress (spec/10_state.md R26, R195). A transfer call runs
the wire command its bytes decode to. -/
def microStep (s : State) : Result :=
  match microAt s.op s.seq with
  | none => .fault .noMicroOperation
  | some .delay => .next s.delayCycle
  | some .csLow => .next (s.setSelect .low).advance
  | some .csHigh => .next (s.setSelect .high).advance
  | some (.xfer call) =>
    match decode s.params (.wire (call.opening s.addr)) with
    | .ok i => exec i s
    | .error _ => .fault .noMicroOperation
  | some .lenCheck => .next s.lenCheck
  | some .clearPolls => .next s.clearPolls
  | some (.pollTest back) => .next (s.pollTest back)
  | some .respond => .next s.respond

/-- The block at rest: the request the host presents is decoded and run; one that decodes to nothing
(a reserved code, R107) is never accepted and the host takes it back (log 8). -/
def idleStep (s : State) : Result :=
  match s.host with
  | [] => .next s
  | w :: rest =>
    match decode s.params (.port w) with
    | .ok i => exec i { s with host := rest }
    | .error _ => .next { s with host := rest }

/-- One step of the block: it accepts requests only when Idle (R42), else runs its micro-program. -/
def blockStep (s : State) : Result := if s.idle then idleStep s else microStep s

/-- An outside event between two steps of the block. A request presented now is run at once: exec
accepts it when the block is Idle and changes nothing otherwise (R42). -/
def outsideStep (o : Outside) (s : State) : Result :=
  match o with
  | .reset => .next s.resetInput
  | .chipDone => .next { s with chip := s.chip.complete s.params }
  | .present w =>
    match decode s.params (.port w) with
    | .ok i => exec i s
    | .error _ => .next s

/-- One step of the machine: the outside event that is due, else a step of the block, which brings the
next outside event one step nearer. -/
def stepMachine (s : State) : Result :=
  match s.async with
  | [] => blockStep s
  | ⟨0, o⟩ :: rest => outsideStep o { s with async := rest }
  | ⟨n + 1, o⟩ :: rest => blockStep { s with async := ⟨n, o⟩ :: rest }

/-- The position of the first transfer call of a wire command, in an operation that sends it. -/
def wirePlace : Instr → Option (Op × Nat × FlashAddr)
  | .pageProgramCmd a => some (.pageProgram, 11, a)
  | .readCmd a => some (.read, 3, a)
  | .readStatusCmd => some (.readStatus, 3, 0#24)
  | .writeEnableCmd => some (.writeEnable, 3, 0#24)
  | .sectorEraseCmd a => some (.sectorErase, 10, a)
  | .read _ _ => none
  | .writeEnable _ _ => none
  | .sectorErase _ _ => none
  | .pageProgram _ _ _ => none
  | .readStatus _ _ => none

/-- Places an instruction's code where the next step fetches it (log 7): a request at the host port of
an Idle block with its select line high; a wire command as the transfer call due in an open bracket of
an operation that sends it, with ADDR holding its address. -/
def State.place (c : Code) (s : State) : State :=
  match c with
  | .port w => { s with phase := .idle, cs := .high, async := [], host := w :: s.host }
  | .wire bytes =>
    match (decodeWire bytes).toOption.bind (fun r => wirePlace r.1) with
    | some (op, n, a) =>
      { s with op := op, seq := .main n, addr := a, phase := .transmitting, cs := .low, async := [] }
    | none => s

/-- `State.place` of a word of spec/opcode_table.json. -/
def State.placeTableWord (s : State) (nbits w : Nat) : State := s.place (tableCode s.params nbits (w % 2 ^ nbits))

end Sys2Proof.Machine
end

