-- ==== Sys2Proof/Safety.lean ====
section
/-! DEFINITION. What the claims are stated with: the invariant of the state (spec/10_state.md R46), the
rules of the event trace as an automaton that reads it, and runs of the machine. -/

/-- The address a command carries; 0 for the two that carry none. -/
def Sys2Proof.Command.address : Command → Nat
  | .read a => a
  | .writeEnable => 0
  | .status => 0
  | .sectorErase a => a
  | .pageProgram a => a

namespace Sys2Proof.Machine

open Config

/-! ### Positions of the micro-programs -/

/-- The select-line level after some micro-operations, from the level before them. -/
def levelAfter : Level → List MicroOp → Level
  | l, [] => l
  | _, .csLow :: rest => levelAfter .low rest
  | _, .csHigh :: rest => levelAfter .high rest
  | l, _ :: rest => levelAfter l rest

/-- The select-line level a position implies (R30, spec/43_flash_driver.md R195). -/
def levelAt (op : Op) : Seq → Level
  | .main n => levelAfter .high ((program op).take n)
  | .exit n => levelAfter .low (exitProgram.take n)

/-- The bytes a transfer call sends (spec/10_state.md R43, spec/30_encoding.md R101). -/
def Call.sends (s : State) : Call → List Byte
  | .writeEnable => frame .writeEnable
  | .status => statusExchange
  | .readFrame => frame (.read s.addr.toNat)
  | .readData => s.dummies
  | .eraseFrame => frame (.sectorErase s.addr.toNat)
  | .programFrame => frame (.pageProgram s.addr.toNat)
  | .programData => s.pagebuf

/-- The bytes sent in the open bracket after some micro-operations. -/
def sentAfter (s : State) : List Byte → List MicroOp → List Byte
  | sent, [] => sent
  | _, .csLow :: rest => sentAfter s [] rest
  | _, .csHigh :: rest => sentAfter s [] rest
  | sent, .xfer call :: rest => sentAfter s (sent ++ call.sends s) rest
  | sent, _ :: rest => sentAfter s sent rest

/-- The position lies in `wait_until_ready` with POLLCNT cleared: from the first poll bracket to the
poll test, both included (R195). -/
def inPolls (op : Op) : Seq → Bool
  | .exit _ => false
  | .main n =>
    match op with
    | .sectorErase => decide (15 ≤ n) && decide (n ≤ 22)
    | .pageProgram => decide (17 ≤ n) && decide (n ≤ 24)
    | .read => false
    | .writeEnable => false
    | .readStatus => false

/-- The position lies after a passing poll test (R195). -/
def pollsDone (op : Op) : Seq → Bool
  | .exit _ => false
  | .main n =>
    match op with
    | .sectorErase => decide (23 ≤ n)
    | .pageProgram => decide (25 ≤ n)
    | .read => false
    | .writeEnable => false
    | .readStatus => false

/-! ### The invariant -/

/-- R46 (1) and R195: at rest the line is high; in an operation SEQ is inside the micro-program, and
PHASE and CS are what the position implies. No response is out while an operation runs. -/
def State.controlInv (s : State) : Prop :=
  if s.idle then s.cs = .high
  else (microAt s.op s.seq).isSome ∧ s.phase = phaseAt s.op s.seq ∧ s.cs = levelAt s.op s.seq ∧ s.rsp = none

/-- R33: GCNT counts down from `GUARD_CYCLES` at a delay and is 0 elsewhere. -/
def State.delayInv (s : State) : Prop :=
  if s.idle = false ∧ microAt s.op s.seq = some .delay then s.gcnt ≤ s.params.guardCycles else s.gcnt = 0

/-- R31, R226: ERR is `OK` until an error is raised; the error exit runs with an error, and its
`deselect()` only with `BusFault`. -/
def errFits (e : Err) : Seq → Bool
  | .main _ => e == .ok
  | .exit n => e != .ok && (decide (3 ≤ n) || e == .busFault)

/-- ERR fits the position of the operation in progress. -/
def State.errInv (s : State) : Prop := s.idle = false → errFits s.err s.seq

/-- R23, R24, R223, R191: the latches have their widths; past its length check a program has
`LEN == 256`; a read makes its second transfer call only when `LEN > 0`. -/
def State.latchInv (s : State) : Prop :=
  s.pagebuf.length = pageSize ∧ s.len < 2 ^ s.params.lenWidth ∧
    (s.idle = false → s.op = .pageProgram → ∀ n, s.seq = .main (n + 1) → s.len = pageSize) ∧
    (s.idle = false → s.op = .read → s.seq = .main 4 → s.len ≠ 0)

/-- R173: in the polls the bound is not reached; after a passing poll test at least one iteration was
run and the last byte read had BUSY clear. -/
def State.pollInv (s : State) : Prop :=
  s.idle = false →
    (inPolls s.op s.seq → s.params.maxPolls.reached s.pollcnt = false) ∧
    (pollsDone s.op s.seq → 1 ≤ s.pollcnt ∧ busy s.status = false)

/-- What the chip has received in the bracket under way is what the block has sent; outside brackets
nothing, and no bracket is cut (R100). -/
def State.wireInv (s : State) : Prop :=
  (s.cs = .high → s.chip.rx = [] ∧ s.chip.cut = false) ∧
  (s.idle = false → s.cs = .low → ∀ n, s.seq = .main n →
    s.chip.rx = sentAfter s [] ((program s.op).take n))

/-- The chip's array is in canonical form, and its work under way lies inside the capacity. -/
def Chip.good (p : Params) (c : Chip) : Prop :=
  c.flash.wf ∧
    match c.work with
    | .unknown => True
    | .erase a => a + p.sectorSize ≤ p.capacity
    | .program a d => d.length = pageSize ∧ a + pageSize ≤ p.capacity
    | .doubtful a n => a + n ≤ p.capacity

/-- The invariant: the instance's parameters are legal and all of the above. -/
structure State.Inv (s : State) : Prop where
  params : s.params.wf
  control : s.controlInv
  delay : s.delayInv
  err : s.errInv
  latch : s.latchInv
  poll : s.pollInv
  wire : s.wireInv
  chip : s.chip.good s.params

/-! ### The rules of the trace -/

/-- What a reader of the trace knows (R46, spec/40_chip_select.md R133, spec/43_flash_driver.md R196,
R197, spec/60_exceptions.md R222): an operation is running; the level; the bytes of the open bracket;
a call of this operation has faulted; the last bracket was a whole Write Enable; a destructive bracket
waits for its status read; a reset has just begun. -/
structure Watch where
  running : Bool
  level : Level
  sent : List Byte
  broken : Bool
  armed : Bool
  owes : Bool
  resetting : Bool
  deriving DecidableEq, Repr

/-- At rest. -/
def Watch.rest : Watch := ⟨false, .high, [], false, false, false, false⟩

/-- A destructive command (R13): Sector Erase or Page Program. -/
def destructive (b : Byte) : Bool := b == opSectorErase || b == opPageProgram

/-- A transfer call is in order: in an operation, with the line low (R46 (2)), not empty, none after a
fault (R222); the first call of a bracket opens with one of the five opcodes (R46 (5)), a destructive
one only right after a Write Enable bracket (R196), and after a destructive bracket it is the status
exchange (R197). -/
def Watch.callOk (w : Watch) (tx : List Byte) : Bool :=
  w.running && w.level == .low && !w.broken && tx != []
    && (w.sent != []
      || (isOpcode (tx.headD 0x00#8) && (!destructive (tx.headD 0x00#8) || w.armed)
        && (!w.owes || tx == statusExchange)))

/-- A whole bracket of a destructive command: 4 bytes for an erase, 260 for a program (R194: "exactly
256 data bytes, never fewer, never more"). -/
def bracketOk (sent : List Byte) : Bool :=
  match sent with
  | [] => false
  | b :: _ =>
    if b = opPageProgram then sent.length == 260
    else if b = opSectorErase then sent.length == 4
    else true

/-- Reads one event; none where the trace breaks a rule. -/
def Watch.read (w : Watch) : Event → Option Watch
  | .delay _ => some w
  | .reset => some { Watch.rest with resetting := true }
  | .req _ => if w.running || w.resetting then none else some { Watch.rest with running := true }
  | .rsp r =>
    if w.running && w.level == .high && !w.owes && (r.err == .busFault) == w.broken then some Watch.rest
    else none
  | .cs .low =>
    if w.running && w.level == .high && !w.broken then some { w with level := .low, sent := [] } else none
  | .cs .high =>
    if w.resetting then some Watch.rest
    else if w.running && w.level == .low && (w.broken || bracketOk w.sent) then
      some { w with
        level := .high
        sent := []
        armed := !w.broken && w.sent == frame .writeEnable
        owes := w.owes || (!w.broken && destructive (w.sent.headD 0x00#8)) }
    else none
  | .xfer tx rx =>
    if w.callOk tx && rx.length == tx.length then
      some { w with sent := w.sent ++ tx, owes := w.owes && w.sent != [] }
    else none
  | .xferFault tx =>
    if w.callOk tx then some { w with broken := true, owes := w.owes && w.sent != [] } else none

/-- Reads a trace from the first event on. -/
def Watch.readAll (w : Watch) : List Event → Option Watch
  | [] => some w
  | e :: rest => (w.read e).bind (fun w' => Watch.readAll w' rest)

/-- The position lies between the line going high after Write Enable and the destructive command's
first call, that call included. -/
def armedAt (op : Op) : Seq → Bool
  | .exit _ => false
  | .main n =>
    match op with
    | .sectorErase => decide (6 ≤ n) && decide (n ≤ 10)
    | .pageProgram => decide (7 ≤ n) && decide (n ≤ 11)
    | .read => false
    | .writeEnable => false
    | .readStatus => false

/-- The position lies between the line going high after the destructive command and the first status
exchange, that call included. -/
def owesAt (op : Op) : Seq → Bool
  | .exit _ => false
  | .main n =>
    match op with
    | .sectorErase => decide (13 ≤ n) && decide (n ≤ 18)
    | .pageProgram => decide (15 ≤ n) && decide (n ≤ 20)
    | .read => false
    | .writeEnable => false
    | .readStatus => false

/-- What the reader of the trace knows agrees with the state. -/
structure Watch.Agrees (w : Watch) (s : State) : Prop where
  running : w.running = !s.idle
  level : w.level = s.cs
  broken : w.broken = (!s.idle && s.err == .busFault)
  sent : s.cs = .low → w.broken = false → w.sent = s.chip.rx
  armed : s.idle = false → armedAt s.op s.seq → w.armed
  owes : w.owes → s.idle = false ∧ owesAt s.op s.seq
  resetting : w.resetting = false

/-- The trace keeps the rules up to now, and its reader agrees with the state. -/
def State.traceInv (s : State) : Prop :=
  ∃ w, Watch.rest.readAll s.trace = some w ∧ w.Agrees s

/-! ### Runs -/

/-- `k` steps of the machine; none when one of them stops. -/
def State.run : Nat → State → Option State
  | 0, s => some s
  | k + 1, s =>
    match step s with
    | .next t => State.run k t
    | .fault _ => none
    | .refused _ => none

/-- Some number of steps leads from `s` to `t`. -/
def State.leadsTo (s t : State) : Prop := ∃ k, s.run k = some t

/-- No outside event is due at `s`, and `s'` is `s` with the next one a step nearer (log 8). -/
def State.noneDue (s s' : State) : Prop :=
  (s.async = [] ∧ s' = s) ∨
    ∃ n o rest, s.async = ⟨n + 1, o⟩ :: rest ∧ s' = { s with async := ⟨n, o⟩ :: rest }

/-- The events of `select()` (spec/40_chip_select.md R130). -/
def selectEvents (g : Nat) : List Event := [.delay g, .cs .low, .delay g]

/-- The events of `deselect()` (R131). -/
def deselectEvents (g : Nat) : List Event := [.delay g, .cs .high, .delay g]

/-- The events of one bracket around its transfer calls (R13). -/
def bracketEvents (g : Nat) (calls : List Event) : List Event := selectEvents g ++ calls ++ deselectEvents g

/-- The events of one poll iteration whose received bytes are `rx` (spec/42_status_poller.md R170). -/
def pollEvents (g : Nat) (rx : List Byte) : List Event := bracketEvents g [.xfer statusExchange rx]

/-- Host operation `i`, run from `s`, ends in the state `u` at rest. -/
def State.completes (s : State) (i : Instr) (u : State) : Prop :=
  ∃ t, exec i s = .next t ∧ t.leadsTo u ∧ u.phase = .idle

/-- None of the next `n` transfer calls is faulted by the transport. -/
def State.noFaults (s : State) (n : Nat) : Prop := ∀ j < n, (s.answerAt j).fault = false

/-- The received bytes of the iterations of one `wait_until_ready` bounded by `extra + 1`, and how it ends
(spec/42_status_poller.md R171 to R173): all but the last read BUSY set; the last reads it clear and the
loop succeeds, or reads it set at the bound and the loop times out. -/
def pollsEnd (extra : Nat) (polls : List (List Byte)) (err : Err) : Prop :=
  (∀ rx ∈ polls, rx.length = 2) ∧ (∀ rx ∈ polls.dropLast, busy (rx.getD 1 0x00#8) = true) ∧
    ∃ last, polls.getLast? = some last ∧
      ((busy (last.getD 1 0x00#8) = false ∧ err = .ok ∧ polls.length ≤ extra + 1) ∨
        (busy (last.getD 1 0x00#8) = true ∧ err = .timeout ∧ polls.length = extra + 1))

/-! ### Frames -/

/-- The operand latches are as they were (spec/10_state.md R20). -/
def State.sameLatches (s t : State) : Prop :=
  t.op = s.op ∧ t.addr = s.addr ∧ t.len = s.len ∧ t.pagebuf = s.pagebuf

/-- The fields no transfer call touches. -/
def State.sameRest (s t : State) : Prop :=
  t.params = s.params ∧ t.cs = s.cs ∧ t.pollcnt = s.pollcnt ∧ t.rsp = s.rsp ∧ t.host = s.host ∧ t.async = s.async

/-- GCNT after control has gone to `q` (R33): loaded for a delay, else as it was. -/
def State.gcntAt (s : State) (op : Op) (q : Seq) : Nat :=
  if microAt op q = some MicroOp.delay then s.params.guardCycles else s.gcnt

/-- After a call of `tx` every flash byte reads, and WEL and CBUSY are, as the chip had them when the call
began, unless the call takes the selected chip outside its contract (spec/20_memory.md R77). -/
def State.chipKept (s t : State) (tx : List Byte) : Prop :=
  s.selected = false ∨ s.chipAtCall.breaks s.params (s.chipAtCall.rx ++ tx) = false →
    (∀ a, t.chip.byteAt a = s.chipAtCall.byteAt a) ∧ t.chip.wel = s.chipAtCall.wel ∧
      t.chip.cbusy = s.chipAtCall.cbusy

/-- A transfer call of `tx` was carried out and control is at `q`: the event with as many bytes received
as sent, and everything else unchanged but the environment's answer, the chip's view of the bracket, and
the registers a statement names beside this. -/
def State.sentCall (s t : State) (tx rx : List Byte) (q : Seq) : Prop :=
  t.trace = s.trace ++ [.xfer tx rx] ∧ rx.length = tx.length ∧ t.seq = q ∧ t.phase = phaseAt s.op q ∧
    t.gcnt = s.gcntAt s.op q ∧ t.err = s.err ∧ s.sameLatches t ∧ s.sameRest t ∧ s.chipKept t tx

/-- A transfer call of `tx` was faulted: the event, `ERR` is BusFault, control is in the error exit, and
everything else is unchanged but the environment's answer and the chip, of whose part a statement of its
own speaks (log 14). -/
def State.faultedCall (s t : State) (tx : List Byte) : Prop :=
  t.trace = s.trace ++ [.xferFault tx] ∧ t.err = .busFault ∧ t.seq = .exit (if s.cs = .low then 0 else 3) ∧
    t.phase = .deselected ∧ t.gcnt = s.gcntAt s.op t.seq ∧ t.status = s.status ∧ t.rdata = s.rdata ∧
    s.sameLatches t ∧ s.sameRest t ∧ (s.cs = .high → t.chip = s.chipAtCall)

/-- Acceptance (spec/10_state.md R40): the latches, ERR, SEQ and PHASE, the event `REQ`, and every other
register as it was; `page` is what PAGEBUF then holds. -/
def State.tookRequest (s t : State) (op : Op) (addr len : Nat) (payload page : List Byte) : Prop :=
  t.op = op ∧ t.addr = BitVec.ofNat 24 addr ∧ t.len = len ∧ t.pagebuf = page ∧ t.err = .ok ∧
    t.seq = .main 0 ∧ t.phase ≠ .idle ∧ t.gcnt = s.gcntAt op (.main 0) ∧ t.rdata = [] ∧ t.rsp = none ∧
    t.trace = s.trace ++ [.req ⟨op, addr, len, payload⟩] ∧
    t.params = s.params ∧ t.cs = s.cs ∧ t.status = s.status ∧ t.pollcnt = s.pollcnt ∧ t.chip = s.chip ∧
    t.host = s.host ∧ t.answers = s.answers ∧ t.draws = s.draws ∧ t.async = s.async

end Sys2Proof.Machine
end

