-- ==== Sys2Proof/Certificates/Slice0/Obligations.lean ====
section
/-! DEFINITION. The statements for the provers: what the rules of spec/ say the block does. OBLIGATIONS.json
lists them with their rules. -/

open Sys2Proof Sys2Proof.Machine Sys2Proof.Config

/-! ### Encoding -/

/-- Words written out from R101, R104 and R106 decode to the instruction they stand for. -/
def Obligations.SampleWordsDecode : Prop :=
  decode instanceParams (.wire [0x02#8, 0x00#8, 0x01#8, 0x00#8]) = .ok (.pageProgramCmd 0x000100#24) ∧
  decode instanceParams (.wire [0x03#8, 0x12#8, 0x34#8, 0x56#8]) = .ok (.readCmd 0x123456#24) ∧
  decode instanceParams (.wire [0x20#8, 0x00#8, 0x10#8, 0x00#8]) = .ok (.sectorEraseCmd 0x001000#24) ∧
  decode instanceParams (.wire [0x05#8, 0x00#8]) = .ok .readStatusCmd ∧
  decode instanceParams (.wire [0x06#8]) = .ok .writeEnableCmd ∧
  decode instanceParams (.port ⟨0x2000001000000, []⟩) = .ok (.sectorErase 256 0) ∧
  decode instanceParams (.port ⟨0x0010002000000, []⟩) = .ok (.read 0x01000200 0) ∧
  decode instanceParams (.port ⟨0x4000000000000, []⟩) = .ok (.readStatus 0 0) ∧
  decode instanceParams (.port ⟨0x6000000000000, []⟩) = .error (.reservedOp 6)

/-- Decoding an encoded well-formed instruction gives it back, all operands included, for every port width
(R101, R103, R106). -/
def Obligations.DecodeOfEncodeIsTheInstruction : Prop :=
  ∀ (p : Params) (i : Instr), WellFormed p i = true → decode p (encode p i) = .ok i

/-- A request word that decodes is the encoding of its instruction, which is well formed (R106, R107). -/
def Obligations.EncodeOfDecodeIsTheRequest : Prop :=
  ∀ (p : Params) (w : PortWord) (i : Instr), decode p (.port w) = .ok i →
    WellFormed p i = true ∧
      encode p i = .port ⟨w.word, if w.word / 2 ^ (p.hostAddrWidth + p.lenWidth) = 3 then w.payload else []⟩

/-- R156: the three bytes are bits 23:16, 15:8, 7:0 of a number of any width, and bits 24 and up are
dropped; the rule's three examples. -/
def Obligations.AddressBytesAreTheLowTwentyFourBits : Prop :=
  (∀ a : Nat,
    addr3 a = [BitVec.ofNat 8 ((a >>> 16) &&& 0xFF), BitVec.ofNat 8 ((a >>> 8) &&& 0xFF), BitVec.ofNat 8 (a &&& 0xFF)] ∧
    addr3 a = addr3 (a % 2 ^ 24)) ∧
  addr3 0x000100 = [0x00#8, 0x01#8, 0x00#8] ∧ addr3 0x12ABCDEF = [0xAB#8, 0xCD#8, 0xEF#8] ∧
  addr3 0x01000000 = [0x00#8, 0x00#8, 0x00#8]

/-- R157: the address round trip, and injectivity of `addr3` and of `frame` below 2^24. -/
def Obligations.FramingIsAPureRoundTrip : Prop :=
  (∀ a : Nat, decode3 (addr3 a) = a % 2 ^ 24) ∧ (∀ a < 2 ^ 24, decode3 (addr3 a) = a) ∧
  (∀ a < 2 ^ 24, ∀ b < 2 ^ 24, addr3 a = addr3 b → a = b) ∧
  (∀ c d : Command, c.address < 2 ^ 24 → d.address < 2 ^ 24 → frame c = frame d → c = d)

/-- R104: every frame opens with one of the five opcodes, and a wire decoder calls every other first byte
"not a command of this block". -/
def Obligations.OnlyFiveOpcodesAreCommands : Prop :=
  (∀ c : Command, ∃ b rest, frame c = b :: rest ∧ b ∈ [0x02#8, 0x03#8, 0x05#8, 0x06#8, 0x20#8]) ∧
  (∀ (b : Byte) (rest : List Byte), b ∉ [0x02#8, 0x03#8, 0x05#8, 0x06#8, 0x20#8] →
    decodeWire (b :: rest) = .error (.notACommand b))

/-! ### A step runs the decoded instruction -/

/-- With no outside event due, a step of an Idle block runs the request the host presents, the host's list
moved on by one and the next outside event a step nearer (R40; both lists are the model's, log 8). -/
def Obligations.StepRunsThePresentedRequest : Prop :=
  ∀ (s s' : State) (w : PortWord) (rest : List PortWord) (i : Instr),
    s.noneDue s' → s.phase = .idle → s.host = w :: rest → decode s.params (.port w) = .ok i →
      step s = exec i { s' with host := rest }

/-- With no outside event due, a step at a transfer call runs the wire command that the bytes opening its
transaction decode to, the next outside event a step nearer (R100, R101, R195; log 8). -/
def Obligations.StepRunsTheWireCommandOfTheCall : Prop :=
  ∀ (s s' : State) (c : Call) (i : Instr),
    s.noneDue s' → s.phase ≠ .idle → microAt s.op s.seq = some (.xfer c) →
      decode s.params (.wire (c.opening s.addr)) = .ok i → step s = exec i s'

/-- R42, R76: an outside event that is due uses up its entry of the list, and nothing else but: a request
presented between two steps is run by exec (which accepts it when the block is Idle), and the chip's own
completion completes the chip (the list is the model's, log 8, 13). -/
def Obligations.OutsideEventsActBetweenSteps : Prop :=
  (∀ (s : State) (w : PortWord) (rest : List Timed) (i : Instr),
    s.async = ⟨0, .present w⟩ :: rest → decode s.params (.port w) = .ok i →
      step s = exec i { s with async := rest }) ∧
  (∀ (s : State) (rest : List Timed), s.async = ⟨0, .chipDone⟩ :: rest →
    step s = .next { s with async := rest, chip := s.chip.complete s.params })

/-! ### Acceptance of a request -/

/-- R40: an Idle block accepts a well-formed request of each of the five operations in one step. -/
def Obligations.IdleBlockAcceptsEveryRequest : Prop :=
  ∀ (s : State) (addr len : Nat) (payload : List Byte), s.phase = .idle →
    (WellFormed s.params (.read addr len) = true →
      ∃ t, exec (.read addr len) s = .next t ∧ s.tookRequest t .read addr len [] s.pagebuf) ∧
    (WellFormed s.params (.writeEnable addr len) = true →
      ∃ t, exec (.writeEnable addr len) s = .next t ∧ s.tookRequest t .writeEnable addr len [] s.pagebuf) ∧
    (WellFormed s.params (.sectorErase addr len) = true →
      ∃ t, exec (.sectorErase addr len) s = .next t ∧ s.tookRequest t .sectorErase addr len [] s.pagebuf) ∧
    (WellFormed s.params (.pageProgram addr len payload) = true →
      ∃ t, exec (.pageProgram addr len payload) s = .next t ∧
        s.tookRequest t .pageProgram addr len payload (if len = 256 then payload else s.pagebuf)) ∧
    (WellFormed s.params (.readStatus addr len) = true →
      ∃ t, exec (.readStatus addr len) s = .next t ∧ s.tookRequest t .readStatus addr len [] s.pagebuf)

/-- R42, R107: a request while an operation runs changes nothing, whether run by exec or presented between
two steps; a word with a reserved code is refused by the decoder and changes nothing at any time (the host
takes it back, log 8). -/
def Obligations.RequestsOutOfTurnAreNotAccepted : Prop :=
  (∀ (s : State) (addr len : Nat) (payload : List Byte), s.phase ≠ .idle →
    exec (.read addr len) s = .next s ∧ exec (.writeEnable addr len) s = .next s ∧
    exec (.sectorErase addr len) s = .next s ∧ exec (.pageProgram addr len payload) s = .next s ∧
    exec (.readStatus addr len) s = .next s) ∧
  (∀ (s : State) (w : PortWord) (rest : List Timed), s.async = ⟨0, .present w⟩ :: rest → s.phase ≠ .idle →
    step s = .next { s with async := rest }) ∧
  (∀ (s : State) (w : PortWord) (rest : List Timed),
    w.word / 2 ^ (s.params.hostAddrWidth + s.params.lenWidth) ∈ [5, 6, 7] →
      (∃ code, decode s.params (.port w) = .error (.reservedOp code)) ∧
      (s.async = ⟨0, .present w⟩ :: rest → step s = .next { s with async := rest }) ∧
      (∀ more, s.async = [] → s.phase = .idle → s.host = w :: more → step s = .next { s with host := more }))

/-! ### The wire commands -/

/-- R152, R192: `X([06])`, its received byte discarded. -/
def Obligations.WriteEnableCmdSendsItsByte : Prop :=
  ∀ s : State, (s.answerAt 0).fault = false →
    ∃ t rx, exec .writeEnableCmd s = .next t ∧ s.sentCall t [0x06#8] rx s.seq.next ∧
      t.status = s.status ∧ t.rdata = s.rdata

/-- R153, R170: `X([05, 00])` as one call; STATUS is the second received byte. -/
def Obligations.ReadStatusCmdCapturesTheSecondByte : Prop :=
  ∀ s : State, (s.answerAt 0).fault = false →
    ∃ t r0 r1, exec .readStatusCmd s = .next t ∧ s.sentCall t [0x05#8, 0x00#8] [r0, r1] s.seq.next ∧
      t.status = r1 ∧ t.rdata = s.rdata

/-- R154, R193: `X([20, aa, bb, cc])`, its received bytes discarded. -/
def Obligations.SectorEraseCmdSendsItsFrame : Prop :=
  ∀ (s : State) (a : FlashAddr), (s.answerAt 0).fault = false →
    ∃ t rx, exec (.sectorEraseCmd a) s = .next t ∧
      s.sentCall t [0x20#8, a.extractLsb' 16 8, a.extractLsb' 8 8, a.extractLsb' 0 8] rx s.seq.next ∧
      t.status = s.status ∧ t.rdata = s.rdata

/-- R151, R191: the frame in one call, its received bytes discarded and the data call skipped when LEN is 0;
in the data phase LEN dummy bytes, whose received bytes are the data. -/
def Obligations.ReadCmdSendsFrameThenDummies : Prop :=
  ∀ (s : State) (a : FlashAddr), (s.answerAt 0).fault = false →
    (s.inDataPhase = false →
      ∃ t rx, exec (.readCmd a) s = .next t ∧
        s.sentCall t [0x03#8, a.extractLsb' 16 8, a.extractLsb' 8 8, a.extractLsb' 0 8] rx
          (if s.len = 0 then s.seq.next.next else s.seq.next) ∧
        t.status = s.status ∧ t.rdata = s.rdata) ∧
    (s.inDataPhase = true →
      ∃ t rx, exec (.readCmd a) s = .next t ∧
        s.sentCall t (List.replicate s.len s.params.dummyByte) rx s.seq.next ∧
        t.status = s.status ∧ t.rdata = rx)

/-- R155, R194: the frame in one call; in the data phase the bytes of PAGEBUF in order; received bytes
discarded. -/
def Obligations.PageProgramCmdSendsFrameThenPage : Prop :=
  ∀ (s : State) (a : FlashAddr), (s.answerAt 0).fault = false →
    (s.inDataPhase = false →
      ∃ t rx, exec (.pageProgramCmd a) s = .next t ∧
        s.sentCall t [0x02#8, a.extractLsb' 16 8, a.extractLsb' 8 8, a.extractLsb' 0 8] rx s.seq.next ∧
        t.status = s.status ∧ t.rdata = s.rdata) ∧
    (s.inDataPhase = true →
      ∃ t rx, exec (.pageProgramCmd a) s = .next t ∧ s.sentCall t s.pagebuf rx s.seq.next ∧
        t.status = s.status ∧ t.rdata = s.rdata)

/-- R222: a fault of any call of the five wire commands raises BusFault, with nothing received kept. -/
def Obligations.BusFaultEndsEveryWireCommand : Prop :=
  ∀ (s : State) (a : FlashAddr), (s.answerAt 0).fault = true →
    (∃ t, exec .writeEnableCmd s = .next t ∧ s.faultedCall t [0x06#8]) ∧
    (∃ t, exec .readStatusCmd s = .next t ∧ s.faultedCall t [0x05#8, 0x00#8]) ∧
    (∃ t, exec (.sectorEraseCmd a) s = .next t ∧ s.faultedCall t (0x20#8 :: addr3 a.toNat)) ∧
    (∃ t, exec (.readCmd a) s = .next t ∧
      s.faultedCall t (if s.inDataPhase then List.replicate s.len s.params.dummyByte else 0x03#8 :: addr3 a.toNat)) ∧
    (∃ t, exec (.pageProgramCmd a) s = .next t ∧
      s.faultedCall t (if s.inDataPhase then s.pagebuf else 0x02#8 :: addr3 a.toNat))

/-! ### Whole operations -/

/-- R191: a read runs to `OK` with exactly `len` bytes, one bracket, no second call when `len` is 0. -/
def Obligations.ReadReturnsExactlyLengthBytes : Prop :=
  ∀ (s : State) (a l : Nat), s.phase = .idle → s.async = [] → WellFormed s.params (.read a l) = true →
    s.noFaults 2 →
      ∃ u rx data, s.completes (.read a l) u ∧ rx.length = 4 ∧ data.length = l ∧
        u.rsp = some ⟨.ok, data, none⟩ ∧ u.err = .ok ∧ u.cs = .high ∧
        u.status = s.status ∧ u.pollcnt = s.pollcnt ∧ u.pagebuf = s.pagebuf ∧
        u.trace = s.trace ++ [.req ⟨.read, a, l, []⟩]
          ++ bracketEvents s.params.guardCycles
              ([.xfer (0x03#8 :: addr3 a) rx]
                ++ if l = 0 then [] else [.xfer (List.replicate l s.params.dummyByte) data])
          ++ [.rsp ⟨.ok, data, none⟩]

/-- R192: `write_enable` runs to `OK` with one bracket of `[06]`. -/
def Obligations.WriteEnableRunsOneBracket : Prop :=
  ∀ (s : State) (a l : Nat), s.phase = .idle → s.async = [] → s.noFaults 1 →
      ∃ u rx, s.completes (.writeEnable a l) u ∧ rx.length = 1 ∧
        u.rsp = some ⟨.ok, [], none⟩ ∧ u.err = .ok ∧ u.cs = .high ∧
        u.status = s.status ∧ u.pollcnt = s.pollcnt ∧ u.pagebuf = s.pagebuf ∧
        u.trace = s.trace ++ [.req ⟨.writeEnable, a, l, []⟩]
          ++ bracketEvents s.params.guardCycles [.xfer [0x06#8] rx] ++ [.rsp ⟨.ok, [], none⟩]

/-- R175: `read_status` is one poll iteration and returns the raw byte, whatever its bits. -/
def Obligations.ReadStatusReturnsTheRawByte : Prop :=
  ∀ (s : State) (a l : Nat), s.phase = .idle → s.async = [] → s.noFaults 1 →
      ∃ u r0 r1, s.completes (.readStatus a l) u ∧
        u.rsp = some ⟨.ok, [], some r1⟩ ∧ u.err = .ok ∧ u.cs = .high ∧ u.status = r1 ∧
        u.pollcnt = s.pollcnt ∧ u.pagebuf = s.pagebuf ∧
        u.trace = s.trace ++ [.req ⟨.readStatus, a, l, []⟩]
          ++ pollEvents s.params.guardCycles [r0, r1] ++ [.rsp ⟨.ok, [], some r1⟩]

/-- R193, R171, R172: with a finite bound and no bus fault, `sector_erase` sends Write Enable, then the
erase frame, then polls until ready or out of polls, and responds `OK` or `Timeout`. -/
def Obligations.SectorEraseRunsItsBrackets : Prop :=
  ∀ (s : State) (a l extra : Nat), s.phase = .idle → s.async = [] → s.params.maxPolls = .upTo extra →
    s.noFaults (2 + (extra + 1)) →
      ∃ u r1 r2 polls err, s.completes (.sectorErase a l) u ∧ pollsEnd extra polls err ∧
        u.rsp = some ⟨err, [], none⟩ ∧ u.err = err ∧ u.cs = .high ∧
        u.pollcnt = polls.length ∧ u.pagebuf = s.pagebuf ∧
        u.trace = s.trace ++ [.req ⟨.sectorErase, a, l, []⟩]
          ++ bracketEvents s.params.guardCycles [.xfer [0x06#8] r1]
          ++ bracketEvents s.params.guardCycles [.xfer (0x20#8 :: addr3 a) r2]
          ++ polls.flatMap (pollEvents s.params.guardCycles) ++ [.rsp ⟨err, [], none⟩]

/-- R194, R171, R172: with a finite bound and no bus fault, `page_program` of one Page sends Write Enable,
then the program frame and exactly the 256 payload bytes, then polls. -/
def Obligations.PageProgramRunsItsBrackets : Prop :=
  ∀ (s : State) (a extra : Nat) (page : List Byte), s.phase = .idle → s.async = [] →
    s.params.maxPolls = .upTo extra → 9 ≤ s.params.lenWidth → page.length = 256 →
    s.noFaults (3 + (extra + 1)) →
      ∃ u r1 r2 r3 polls err, s.completes (.pageProgram a 256 page) u ∧ pollsEnd extra polls err ∧
        u.rsp = some ⟨err, [], none⟩ ∧ u.err = err ∧ u.cs = .high ∧
        u.pollcnt = polls.length ∧ u.pagebuf = page ∧
        u.trace = s.trace ++ [.req ⟨.pageProgram, a, 256, page⟩]
          ++ bracketEvents s.params.guardCycles [.xfer [0x06#8] r1]
          ++ bracketEvents s.params.guardCycles [.xfer (0x02#8 :: addr3 a) r2, .xfer page r3]
          ++ polls.flatMap (pollEvents s.params.guardCycles) ++ [.rsp ⟨err, [], none⟩]

/-- R223: a program request whose payload is not one Page, accepted with the line high as it is at rest
(R46 (1)), gets `InvalidLength` with no event between `REQ` and `RSP`, and PAGEBUF, the line and the chip
are untouched; no step of another operation raises that error. -/
def Obligations.InvalidLengthComesBeforeBusActivity : Prop :=
  (∀ (s : State) (a l : Nat) (payload : List Byte), s.phase = .idle → s.cs = .high → s.async = [] →
    WellFormed s.params (.pageProgram a l payload) = true → l ≠ 256 →
      ∃ u, s.completes (.pageProgram a l payload) u ∧ u.rsp = some ⟨.invalidLength, [], none⟩ ∧
        u.err = .invalidLength ∧ u.pagebuf = s.pagebuf ∧ u.cs = .high ∧ u.chip = s.chip ∧
        u.trace = s.trace ++ [.req ⟨.pageProgram, a, l, payload⟩, .rsp ⟨.invalidLength, [], none⟩]) ∧
  (∀ s t : State, step s = .next t → t.err = .invalidLength → s.err = .invalidLength ∨ s.op = .pageProgram)

/-! ### Errors -/

/-- R226: from any state with no outside event due, the error exit sets ERR, closes an open bracket with a
full `deselect()` and no other event, responds with the error and no data, and leaves the latches,
STATUS and POLLCNT as they were; the chip sees its bracket end, or nothing. -/
def Obligations.ErrorExitClosesTheBracket : Prop :=
  ∀ (s : State) (e : Err), s.async = [] → e ≠ .ok →
    ∃ u, (s.raise e).leadsTo u ∧ u.phase = .idle ∧ u.err = e ∧ u.cs = .high ∧
      u.rsp = some ⟨e, [], none⟩ ∧
      u.trace = s.trace ++ (if s.cs = .low then deselectEvents s.params.guardCycles else [])
        ++ [.rsp ⟨e, [], none⟩] ∧
      s.sameLatches u ∧ u.status = s.status ∧ u.pollcnt = s.pollcnt ∧
      u.chip = if s.cs = .low then s.chip.endBracket s.params else s.chip

/-- R65, R77, 93 U3 (log 14): a bus fault in a destructive operation leaves WEL, CBUSY and every byte of the
operation's sector or page any value (the model's free values), the closing `deselect()` done; every other
byte of FLASH stays, and stays when the chip completes. A bus fault in any other operation is a bracket
ended early, outside the contract. -/
def Obligations.BusFaultLeavesOnlyItsUnitInDoubt : Prop :=
  (∀ (s : State) (fa : FlashAddr) (i : Instr) (a n : Nat),
    i ∈ [.writeEnableCmd, .readStatusCmd, .sectorEraseCmd fa, .pageProgramCmd fa] →
    (s.answerAt 0).fault = true → s.cs = .low → s.unit = some (a, n) →
    a % n = 0 → a + n ≤ s.params.capacity → s.chipAtCall.conforms = true →
    (s.chipAtCall.cbusy = false ∨
      i = .readStatusCmd ∧ s.chipAtCall.rx = [] ∧ s.chipAtCall.work.range s.params = some (a, n)) →
      ∃ t, exec i s = .next t ∧
        let c := s.chipAtCall
        let c' := t.chip.endBracket s.params
        c'.conforms = true ∧ c'.wel = chipWel (c.fresh + 1) ∧ c'.cbusy = chipBusy (c.fresh + 1) ∧
        (∀ x, c'.byteAt x = if a ≤ x ∧ x < a + n then flashByte (c.fresh + 1) x else c.byteAt x) ∧
        ∀ x, x < a ∨ a + n ≤ x → (c'.complete s.params).byteAt x = c.byteAt x) ∧
  (∀ (s : State) (fa : FlashAddr) (i : Instr),
    i ∈ [.writeEnableCmd, .readStatusCmd, .readCmd fa] → (s.answerAt 0).fault = true → s.cs = .low →
    s.unit = none → ∃ t, exec i s = .next t ∧ t.chip.conforms = false)

/-- R221, R267, 93 U3 (log 14): the step that raises `Timeout` leaves WEL and CBUSY as they are and every byte
of the operation's sector or page any value (the model's free values), again when a chip still busy
completes; every other byte stays. -/
def Obligations.TimeoutLeavesItsUnitInDoubt : Prop :=
  ∀ (s : State) (back a n : Nat), s.async = [] → s.phase ≠ .idle → microAt s.op s.seq = some (.pollTest back) →
    busy s.status = true → s.params.maxPolls.reached (s.pollcnt + 1) = true → s.unit = some (a, n) →
    a % n = 0 → a + n ≤ s.params.capacity → s.chip.conforms = true →
    (s.chip.cbusy = false ∨ s.chip.work.range s.params = some (a, n)) →
      ∃ t, step s = .next t ∧ t.err = .timeout ∧
        t.chip.conforms = true ∧ t.chip.wel = s.chip.wel ∧ t.chip.cbusy = s.chip.cbusy ∧
        (∀ x, t.chip.byteAt x = if a ≤ x ∧ x < a + n then flashByte (s.chip.fresh + 1) x else s.chip.byteAt x) ∧
        (s.chip.cbusy = true →
          (t.chip.complete s.params).wel = false ∧ (t.chip.complete s.params).cbusy = false ∧
          ∀ x, (t.chip.complete s.params).byteAt x =
            if a ≤ x ∧ x < a + n then flashByte (s.chip.fresh + 2) x else s.chip.byteAt x)

/-- R221: with `MAX_POLLS = inf` no step raises `Timeout`. -/
def Obligations.UnboundedPollingNeverTimesOut : Prop :=
  ∀ s t : State, s.params.maxPolls = .inf → s.err ≠ .timeout → step s = .next t → t.err ≠ .timeout

/-! ### Delays and polls -/

/-- R33, R132: a guard delay is loaded with `GUARD_CYCLES`; each cycle decrements GCNT and does nothing
else; at 0 the event `D(G)` completes and control moves on. -/
def Obligations.GuardDelayCountsItsCycles : Prop :=
  (∀ (s : State) (q : Seq), microAt s.op q = some .delay → (s.goTo q).gcnt = s.params.guardCycles) ∧
  (∀ (s : State) (k : Nat), s.async = [] → s.phase ≠ .idle → microAt s.op s.seq = some .delay → k ≤ s.gcnt →
    s.run k = some { s with gcnt := s.gcnt - k }) ∧
  (∀ s : State, s.async = [] → s.phase ≠ .idle → microAt s.op s.seq = some .delay →
    ∃ t, s.run (s.gcnt + 1) = some t ∧ t.trace = s.trace ++ [.delay s.params.guardCycles] ∧
      t.seq = s.seq.next ∧ t.cs = s.cs ∧ t.chip = s.chip ∧ s.sameLatches t)

/-- R171, for every bound, `inf` included: one poll iteration from the start of its bracket reads one status
byte and then succeeds, times out, or starts again with POLLCNT one higher. -/
def Obligations.PollIterationDecides : Prop :=
  ∀ s : State, s.async = [] → s.phase ≠ .idle → s.err = .ok → s.gcnt = s.params.guardCycles →
    (s.op = .sectorErase ∧ s.seq = .main 15 ∨ s.op = .pageProgram ∧ s.seq = .main 17) → s.noFaults 1 →
      ∃ u r0 r1, s.leadsTo u ∧ u.status = r1 ∧ u.pollcnt = s.pollcnt + 1 ∧ s.sameLatches u ∧ u.cs = .high ∧
        (busy r1 = false → u.phase = .idle ∧ u.err = .ok ∧
          u.trace = s.trace ++ pollEvents s.params.guardCycles [r0, r1] ++ [.rsp ⟨.ok, [], none⟩]) ∧
        (busy r1 = true → s.params.maxPolls.reached (s.pollcnt + 1) = true →
          u.phase = .idle ∧ u.err = .timeout ∧
          u.trace = s.trace ++ pollEvents s.params.guardCycles [r0, r1] ++ [.rsp ⟨.timeout, [], none⟩]) ∧
        (busy r1 = true → s.params.maxPolls.reached (s.pollcnt + 1) = false →
          u.phase = .polling ∧ u.err = .ok ∧ u.seq = s.seq ∧
          u.trace = s.trace ++ pollEvents s.params.guardCycles [r0, r1])

/-! ### The chip contract -/

/-- R71: a bracket of `[06]` sets WEL and does nothing else to a chip in its contract and not busy; the chip
clears WEL when it completes. -/
def Obligations.WriteEnableSetsTheLatch : Prop :=
  ∀ (p : Params) (c : Chip), c.conforms = true →
    (c.cbusy = false →
      (c.beginBracket.receive p [0x06#8]).endBracket p = { c with wel := true, rx := [], cut := false }) ∧
    (c.cbusy = true → (c.complete p).wel = false)

/-- R72: an erase of an aligned sector inside the capacity, received with WEL set and the chip not busy,
makes it busy; on completion every byte of the sector is 0xFF and no other byte has changed. -/
def Obligations.EraseFillsItsSector : Prop :=
  ∀ (p : Params) (c : Chip) (a : Nat), c.conforms = true → c.wel = true → c.cbusy = false → a < 2 ^ 24 →
    a % p.sectorSize = 0 → a + p.sectorSize ≤ p.capacity →
      let c' := (c.beginBracket.receive p (0x20#8 :: addr3 a)).endBracket p
      c'.conforms = true ∧ c'.cbusy = true ∧ (∀ x, c'.byteAt x = c.byteAt x) ∧
      (c'.complete p).wel = false ∧ (c'.complete p).cbusy = false ∧ (c'.complete p).conforms = true ∧
      ∀ x, (c'.complete p).byteAt x = if a ≤ x ∧ x < a + p.sectorSize then 0xFF#8 else c.byteAt x

/-- R73: a program of 256 bytes at a page-aligned address inside the capacity, received in two calls with WEL
set and the chip not busy, makes it busy; on completion the page holds old AND new, and no other byte
has changed. -/
def Obligations.ProgramClearsBitsOfItsPage : Prop :=
  ∀ (p : Params) (c : Chip) (a : Nat) (d : List Byte), c.conforms = true → c.wel = true → c.cbusy = false →
    a < 2 ^ 24 → a % 256 = 0 → a + 256 ≤ p.capacity → d.length = 256 →
      let c' := ((c.beginBracket.receive p (0x02#8 :: addr3 a)).receive p d).endBracket p
      c'.conforms = true ∧ c'.cbusy = true ∧ (∀ x, c'.byteAt x = c.byteAt x) ∧
      (c'.complete p).wel = false ∧ (c'.complete p).cbusy = false ∧ (c'.complete p).conforms = true ∧
      (∀ i < 256, (c'.complete p).byteAt (a + i) = c.byteAt (a + i) &&& d.getD i 0x00#8) ∧
      ∀ x, x < a ∨ a + 256 ≤ x → (c'.complete p).byteAt x = c.byteAt x

/-- R74: the four bytes returned during the frame of a read are draws; after it byte i of the data call is
`FLASH[a+i]` as long as `a+i` is within capacity, whatever is sent; and the chip's array, WEL and busy
condition stay where the whole read is within capacity. -/
def Obligations.ReadDataIsTheArray : Prop :=
  ∀ (p : Params) (c : Chip) (a : Nat) (noise noise' : Nat → Byte) (tx : List Byte),
    c.conforms = true → c.cbusy = false → a < 2 ^ 24 → a < p.capacity →
      let c' := c.beginBracket.receive p (0x03#8 :: addr3 a)
      c.beginBracket.reply p noise (0x03#8 :: addr3 a) = [noise 0, noise 1, noise 2, noise 3] ∧
      (∀ i < tx.length, a + i < p.capacity → (c'.reply p noise' tx)[i]? = some (c.byteAt (a + i))) ∧
      (a + tx.length ≤ p.capacity → (c'.receive p tx).endBracket p = { c with rx := [], cut := false })

/-- R75: bit 0 of the byte returned in the second exchange of a status read is CBUSY, whether or not the chip
is busy, and its bits 7:1 and the first byte are draws; the chip's state does not change. -/
def Obligations.StatusReadShowsBusy : Prop :=
  ∀ (p : Params) (c : Chip) (noise : Nat → Byte), c.conforms = true →
    (∃ r0 r1, c.beginBracket.reply p noise [0x05#8, 0x00#8] = [r0, r1] ∧ busy r1 = c.cbusy ∧
      r0 = noise 0 ∧ r1 &&& 0xFE#8 = noise 1 &&& 0xFE#8) ∧
    (c.beginBracket.receive p [0x05#8, 0x00#8]).endBracket p = { c with rx := [], cut := false }

/-- R77, 93 U2: a chip outside its contract stays outside, whatever it is sent and whatever fails, and
returns only draws (for ever: log 10). -/
def Obligations.ContractOnceLeftIsNotRegained : Prop :=
  ∀ (p : Params) (c : Chip) (noise : Nat → Byte) (tx : List Byte) (unit : Option (Nat × Nat)), c.conforms = false →
    c.reply p noise tx = (List.range tx.length).map noise ∧ (c.receive p tx).conforms = false ∧
    (c.endBracket p).conforms = false ∧ c.beginBracket.conforms = false ∧ (c.complete p).conforms = false ∧
    (c.faulted p unit tx).conforms = false

/-- R199 (1): the block composed with a conforming chip. After `sector_erase` of the sector that holds a page
and `page_program` of the page, each responding OK, `read` returns the first L bytes programmed. -/
def Obligations.ProgrammedPageReadsBack : Prop :=
  ∀ (s u v w : State) (sector page l len : Nat) (data : List Byte),
    s.Inv → s.phase = .idle → s.async = [] → s.host = [] → s.chip.conforms = true → s.chip.cbusy = false →
    sector % s.params.sectorSize = 0 → sector ≤ page → page + 256 ≤ sector + s.params.sectorSize →
    sector + s.params.sectorSize ≤ s.params.capacity → page % 256 = 0 → data.length = 256 → len ≤ 256 →
    s.completes (.sectorErase sector l) u → u.err = .ok →
    u.completes (.pageProgram page 256 data) v → v.err = .ok →
    v.completes (.read page len) w → w.err = .ok →
      w.rsp = some ⟨.ok, data.take len, none⟩

/-- R199 (2): after `sector_erase` responding OK, a `read` inside the sector returns bytes of 0xFF. -/
def Obligations.ErasedSectorReadsAllOnes : Prop :=
  ∀ (s u w : State) (sector a l len : Nat),
    s.Inv → s.phase = .idle → s.async = [] → s.host = [] → s.chip.conforms = true → s.chip.cbusy = false →
    sector % s.params.sectorSize = 0 → sector ≤ a → a < sector + s.params.sectorSize →
    a + len ≤ sector + s.params.sectorSize → sector + s.params.sectorSize ≤ s.params.capacity →
    len < 2 ^ s.params.lenWidth →
    s.completes (.sectorErase sector l) u → u.err = .ok →
    u.completes (.read a len) w → w.err = .ok →
      w.rsp = some ⟨.ok, List.replicate len 0xFF#8, none⟩

/-! ### Rules of the whole machine -/

/-- The invariant of the state holds right after reset, and the trace of reset keeps the trace rules. -/
def Obligations.ResetMeetsTheInvariant : Prop := State.reset.Inv ∧ State.reset.traceInv

/-- Every step from a state that meets the invariant leads to one that meets it. -/
def Obligations.StepKeepsTheInvariant : Prop := ∀ s t : State, s.Inv → step s = .next t → t.Inv

/-- R46, R133, R196, R197, R222: every step keeps the rules of the trace. -/
def Obligations.StepKeepsTheTraceRules : Prop :=
  ∀ s t : State, s.Inv → s.traceInv → step s = .next t → t.traceInv

/-- From a state that meets the invariant the machine never stops: every step answers a next state. -/
def Obligations.EveryStepAnswersANextState : Prop := ∀ s : State, s.Inv → ∃ t, step s = .next t

/-- R41, R176: with a finite bound and no outside event due, an operation in progress reaches its response,
whatever the transport and the chip answer. Every call and delay returns (R176's proviso; log 25). -/
def Obligations.EveryOperationGetsItsResponse : Prop :=
  ∀ (s : State) (extra : Nat), s.Inv → s.async = [] → s.phase ≠ .idle → s.params.maxPolls = .upTo extra →
    ∃ u r, s.leadsTo u ∧ u.phase = .idle ∧ u.cs = .high ∧ u.rsp = some r ∧ r.err = u.err

/-- R28: no step writes the instance's parameters. R10: the trace only grows. -/
def Obligations.ParametersStayAndTheTraceGrows : Prop :=
  ∀ s t : State, step s = .next t → t.params = s.params ∧ ∃ more, t.trace = s.trace ++ more

/-- R20: while an operation runs, no step but the reset input writes an operand latch. -/
def Obligations.LatchesAreConstantWhileRunning : Prop :=
  ∀ s t : State, s.phase ≠ .idle → (∀ rest, s.async ≠ ⟨0, .reset⟩ :: rest) → step s = .next t → s.sameLatches t

/-- R29, R30: while an operation runs, no step but the reset input writes STATUS except a status exchange, or
CS except `CSL` and `CSH`. -/
def Obligations.StatusAndSelectHaveOneWriterEach : Prop :=
  ∀ s t : State, s.phase ≠ .idle → (∀ rest, s.async ≠ ⟨0, .reset⟩ :: rest) → step s = .next t →
    (microAt s.op s.seq ≠ some (.xfer .status) → t.status = s.status) ∧
    (microAt s.op s.seq ≠ some .csLow → microAt s.op s.seq ≠ some .csHigh → t.cs = s.cs)

/-- R197: `read`, `write_enable` and `read_status` never poll: no step of theirs but the reset input changes
POLLCNT or ends in `Timeout`. -/
def Obligations.PlainOperationsNeverPoll : Prop :=
  ∀ s t : State, s.phase ≠ .idle → s.op ∈ [Op.read, Op.writeEnable, Op.readStatus] →
    (∀ rest, s.async ≠ ⟨0, .reset⟩ :: rest) → s.err ≠ .timeout → step s = .next t →
      t.pollcnt = s.pollcnt ∧ t.err ≠ .timeout

/-- R260, R261, R45: the reset input, at any moment, drops the operation without a response, puts the block
at rest with the line high, and sends nothing. It does not touch the chip; a transaction cut short and a
destructive command pending leave the contract (R77, 93 U16), and a destructive operation cut short before
its command was sent, a page_program at its length check excepted, leaves its sector or page any value and
no more (R45, R267; log 16): where the address is not aligned, which bytes that is "is not stated" (R72),
and it is every byte of every unit that contains the address, within capacity. -/
def Obligations.ResetInputPutsTheBlockAtRest : Prop :=
  ∀ (s : State) (rest : List Timed), s.async = ⟨0, .reset⟩ :: rest →
    ∃ t, step s = .next t ∧ t.phase = .idle ∧ t.seq = .main 0 ∧ t.cs = .high ∧ t.err = .ok ∧ t.pollcnt = 0 ∧
      t.gcnt = 0 ∧ t.rsp = none ∧ t.trace = s.trace ++ [.reset, .cs .high] ∧ t.params = s.params ∧
      t.host = s.host ∧ t.async = rest ∧ t.answers = s.answers ∧ t.draws = s.draws ∧
      (s.cs = .low → t.chip.conforms = false) ∧
      (s.chip.cbusy = true ∨ s.phase ≠ .idle ∧ commandPending s.op s.seq = true → t.chip.conforms = false) ∧
      (s.cs = .high → s.chip.cbusy = false →
        (s.phase ≠ .idle → commandPending s.op s.seq = false ∧ commandDue s.op s.seq = false) → t.chip = s.chip) ∧
      (∀ a n, s.cs = .high → s.chip.cbusy = false → s.phase ≠ .idle → commandDue s.op s.seq = true →
        s.unit = some (a, n) →
          t.chip.conforms = s.chip.conforms ∧ t.chip.wel = s.chip.wel ∧ t.chip.cbusy = false ∧
          ∀ x, t.chip.byteAt x =
            if (if a % n = 0 then a ≤ x else a < x + n) ∧ x < a + n ∧ x < s.params.capacity then
              flashByte (s.chip.fresh + 1) x
            else s.chip.byteAt x)
end

