-- ==== Sys2Proof/Laws/State.lean ====
section
/-! SUPPORT. One lemma per field per update of State, each true by rfl, so that no later proof unfolds
a record update. -/

namespace Sys2Proof.Machine

open Config

/-! ### `emit` -/

@[simp] theorem State.emit_params (e : Event) (s : State) : (s.emit e).params = s.params := rfl
@[simp] theorem State.emit_op (e : Event) (s : State) : (s.emit e).op = s.op := rfl
@[simp] theorem State.emit_addr (e : Event) (s : State) : (s.emit e).addr = s.addr := rfl
@[simp] theorem State.emit_len (e : Event) (s : State) : (s.emit e).len = s.len := rfl
@[simp] theorem State.emit_pagebuf (e : Event) (s : State) : (s.emit e).pagebuf = s.pagebuf := rfl
@[simp] theorem State.emit_phase (e : Event) (s : State) : (s.emit e).phase = s.phase := rfl
@[simp] theorem State.emit_seq (e : Event) (s : State) : (s.emit e).seq = s.seq := rfl
@[simp] theorem State.emit_cs (e : Event) (s : State) : (s.emit e).cs = s.cs := rfl
@[simp] theorem State.emit_status (e : Event) (s : State) : (s.emit e).status = s.status := rfl
@[simp] theorem State.emit_err (e : Event) (s : State) : (s.emit e).err = s.err := rfl
@[simp] theorem State.emit_pollcnt (e : Event) (s : State) : (s.emit e).pollcnt = s.pollcnt := rfl
@[simp] theorem State.emit_gcnt (e : Event) (s : State) : (s.emit e).gcnt = s.gcnt := rfl
@[simp] theorem State.emit_rdata (e : Event) (s : State) : (s.emit e).rdata = s.rdata := rfl
@[simp] theorem State.emit_rsp (e : Event) (s : State) : (s.emit e).rsp = s.rsp := rfl
@[simp] theorem State.emit_host (e : Event) (s : State) : (s.emit e).host = s.host := rfl
@[simp] theorem State.emit_chip (e : Event) (s : State) : (s.emit e).chip = s.chip := rfl
@[simp] theorem State.emit_answers (e : Event) (s : State) : (s.emit e).answers = s.answers := rfl
@[simp] theorem State.emit_draws (e : Event) (s : State) : (s.emit e).draws = s.draws := rfl
@[simp] theorem State.emit_async (e : Event) (s : State) : (s.emit e).async = s.async := rfl
@[simp] theorem State.emit_trace (e : Event) (s : State) : (s.emit e).trace = s.trace ++ [e] := rfl

/-! ### `goTo` -/

@[simp] theorem State.goTo_params (q : Seq) (s : State) : (s.goTo q).params = s.params := rfl
@[simp] theorem State.goTo_op (q : Seq) (s : State) : (s.goTo q).op = s.op := rfl
@[simp] theorem State.goTo_addr (q : Seq) (s : State) : (s.goTo q).addr = s.addr := rfl
@[simp] theorem State.goTo_len (q : Seq) (s : State) : (s.goTo q).len = s.len := rfl
@[simp] theorem State.goTo_pagebuf (q : Seq) (s : State) : (s.goTo q).pagebuf = s.pagebuf := rfl
@[simp] theorem State.goTo_phase (q : Seq) (s : State) : (s.goTo q).phase = phaseAt s.op q := rfl
@[simp] theorem State.goTo_seq (q : Seq) (s : State) : (s.goTo q).seq = q := rfl
@[simp] theorem State.goTo_cs (q : Seq) (s : State) : (s.goTo q).cs = s.cs := rfl
@[simp] theorem State.goTo_status (q : Seq) (s : State) : (s.goTo q).status = s.status := rfl
@[simp] theorem State.goTo_err (q : Seq) (s : State) : (s.goTo q).err = s.err := rfl
@[simp] theorem State.goTo_pollcnt (q : Seq) (s : State) : (s.goTo q).pollcnt = s.pollcnt := rfl
@[simp] theorem State.goTo_gcnt (q : Seq) (s : State) : (s.goTo q).gcnt = if microAt s.op q = some MicroOp.delay then s.params.guardCycles else s.gcnt := rfl
@[simp] theorem State.goTo_rdata (q : Seq) (s : State) : (s.goTo q).rdata = s.rdata := rfl
@[simp] theorem State.goTo_rsp (q : Seq) (s : State) : (s.goTo q).rsp = s.rsp := rfl
@[simp] theorem State.goTo_host (q : Seq) (s : State) : (s.goTo q).host = s.host := rfl
@[simp] theorem State.goTo_chip (q : Seq) (s : State) : (s.goTo q).chip = s.chip := rfl
@[simp] theorem State.goTo_answers (q : Seq) (s : State) : (s.goTo q).answers = s.answers := rfl
@[simp] theorem State.goTo_draws (q : Seq) (s : State) : (s.goTo q).draws = s.draws := rfl
@[simp] theorem State.goTo_async (q : Seq) (s : State) : (s.goTo q).async = s.async := rfl
@[simp] theorem State.goTo_trace (q : Seq) (s : State) : (s.goTo q).trace = s.trace := rfl

/-! ### `advance` -/

@[simp] theorem State.advance_params (s : State) : (s.advance).params = s.params := rfl
@[simp] theorem State.advance_op (s : State) : (s.advance).op = s.op := rfl
@[simp] theorem State.advance_addr (s : State) : (s.advance).addr = s.addr := rfl
@[simp] theorem State.advance_len (s : State) : (s.advance).len = s.len := rfl
@[simp] theorem State.advance_pagebuf (s : State) : (s.advance).pagebuf = s.pagebuf := rfl
@[simp] theorem State.advance_phase (s : State) : (s.advance).phase = phaseAt s.op s.seq.next := rfl
@[simp] theorem State.advance_seq (s : State) : (s.advance).seq = s.seq.next := rfl
@[simp] theorem State.advance_cs (s : State) : (s.advance).cs = s.cs := rfl
@[simp] theorem State.advance_status (s : State) : (s.advance).status = s.status := rfl
@[simp] theorem State.advance_err (s : State) : (s.advance).err = s.err := rfl
@[simp] theorem State.advance_pollcnt (s : State) : (s.advance).pollcnt = s.pollcnt := rfl
@[simp] theorem State.advance_gcnt (s : State) : (s.advance).gcnt = if microAt s.op s.seq.next = some MicroOp.delay then s.params.guardCycles else s.gcnt := rfl
@[simp] theorem State.advance_rdata (s : State) : (s.advance).rdata = s.rdata := rfl
@[simp] theorem State.advance_rsp (s : State) : (s.advance).rsp = s.rsp := rfl
@[simp] theorem State.advance_host (s : State) : (s.advance).host = s.host := rfl
@[simp] theorem State.advance_chip (s : State) : (s.advance).chip = s.chip := rfl
@[simp] theorem State.advance_answers (s : State) : (s.advance).answers = s.answers := rfl
@[simp] theorem State.advance_draws (s : State) : (s.advance).draws = s.draws := rfl
@[simp] theorem State.advance_async (s : State) : (s.advance).async = s.async := rfl
@[simp] theorem State.advance_trace (s : State) : (s.advance).trace = s.trace := rfl

/-! ### `raise` -/

@[simp] theorem State.raise_params (e : Err) (s : State) : (s.raise e).params = s.params := rfl
@[simp] theorem State.raise_op (e : Err) (s : State) : (s.raise e).op = s.op := rfl
@[simp] theorem State.raise_addr (e : Err) (s : State) : (s.raise e).addr = s.addr := rfl
@[simp] theorem State.raise_len (e : Err) (s : State) : (s.raise e).len = s.len := rfl
@[simp] theorem State.raise_pagebuf (e : Err) (s : State) : (s.raise e).pagebuf = s.pagebuf := rfl
@[simp] theorem State.raise_phase (e : Err) (s : State) : (s.raise e).phase = .deselected := rfl
@[simp] theorem State.raise_seq (e : Err) (s : State) : (s.raise e).seq = .exit (if s.selected then 0 else 3) := rfl
@[simp] theorem State.raise_cs (e : Err) (s : State) : (s.raise e).cs = s.cs := rfl
@[simp] theorem State.raise_status (e : Err) (s : State) : (s.raise e).status = s.status := rfl
@[simp] theorem State.raise_err (e : Err) (s : State) : (s.raise e).err = e := rfl
@[simp] theorem State.raise_pollcnt (e : Err) (s : State) : (s.raise e).pollcnt = s.pollcnt := rfl
@[simp] theorem State.raise_gcnt (e : Err) (s : State) : (s.raise e).gcnt = if microAt s.op (.exit (if s.selected then 0 else 3)) = some MicroOp.delay then s.params.guardCycles else s.gcnt := rfl
@[simp] theorem State.raise_rdata (e : Err) (s : State) : (s.raise e).rdata = s.rdata := rfl
@[simp] theorem State.raise_rsp (e : Err) (s : State) : (s.raise e).rsp = s.rsp := rfl
@[simp] theorem State.raise_host (e : Err) (s : State) : (s.raise e).host = s.host := rfl
@[simp] theorem State.raise_chip (e : Err) (s : State) : (s.raise e).chip = s.chip := rfl
@[simp] theorem State.raise_answers (e : Err) (s : State) : (s.raise e).answers = s.answers := rfl
@[simp] theorem State.raise_draws (e : Err) (s : State) : (s.raise e).draws = s.draws := rfl
@[simp] theorem State.raise_async (e : Err) (s : State) : (s.raise e).async = s.async := rfl
@[simp] theorem State.raise_trace (e : Err) (s : State) : (s.raise e).trace = s.trace := rfl

/-! ### `respond` -/

@[simp] theorem State.respond_params (s : State) : (s.respond).params = s.params := rfl
@[simp] theorem State.respond_op (s : State) : (s.respond).op = s.op := rfl
@[simp] theorem State.respond_addr (s : State) : (s.respond).addr = s.addr := rfl
@[simp] theorem State.respond_len (s : State) : (s.respond).len = s.len := rfl
@[simp] theorem State.respond_pagebuf (s : State) : (s.respond).pagebuf = s.pagebuf := rfl
@[simp] theorem State.respond_phase (s : State) : (s.respond).phase = .idle := rfl
@[simp] theorem State.respond_seq (s : State) : (s.respond).seq = s.seq := rfl
@[simp] theorem State.respond_cs (s : State) : (s.respond).cs = s.cs := rfl
@[simp] theorem State.respond_status (s : State) : (s.respond).status = s.status := rfl
@[simp] theorem State.respond_err (s : State) : (s.respond).err = s.err := rfl
@[simp] theorem State.respond_pollcnt (s : State) : (s.respond).pollcnt = s.pollcnt := rfl
@[simp] theorem State.respond_gcnt (s : State) : (s.respond).gcnt = s.gcnt := rfl
@[simp] theorem State.respond_rdata (s : State) : (s.respond).rdata = s.rdata := rfl
@[simp] theorem State.respond_rsp (s : State) : (s.respond).rsp = some s.response := rfl
@[simp] theorem State.respond_host (s : State) : (s.respond).host = s.host := rfl
@[simp] theorem State.respond_chip (s : State) : (s.respond).chip = s.chip := rfl
@[simp] theorem State.respond_answers (s : State) : (s.respond).answers = s.answers := rfl
@[simp] theorem State.respond_draws (s : State) : (s.respond).draws = s.draws := rfl
@[simp] theorem State.respond_async (s : State) : (s.respond).async = s.async := rfl
@[simp] theorem State.respond_trace (s : State) : (s.respond).trace = s.trace ++ [.rsp s.response] := rfl

/-! ### `setSelect` -/

@[simp] theorem State.setSelect_params (l : Level) (s : State) : (s.setSelect l).params = s.params := rfl
@[simp] theorem State.setSelect_op (l : Level) (s : State) : (s.setSelect l).op = s.op := rfl
@[simp] theorem State.setSelect_addr (l : Level) (s : State) : (s.setSelect l).addr = s.addr := rfl
@[simp] theorem State.setSelect_len (l : Level) (s : State) : (s.setSelect l).len = s.len := rfl
@[simp] theorem State.setSelect_pagebuf (l : Level) (s : State) : (s.setSelect l).pagebuf = s.pagebuf := rfl
@[simp] theorem State.setSelect_phase (l : Level) (s : State) : (s.setSelect l).phase = s.phase := rfl
@[simp] theorem State.setSelect_seq (l : Level) (s : State) : (s.setSelect l).seq = s.seq := rfl
@[simp] theorem State.setSelect_cs (l : Level) (s : State) : (s.setSelect l).cs = l := rfl
@[simp] theorem State.setSelect_status (l : Level) (s : State) : (s.setSelect l).status = s.status := rfl
@[simp] theorem State.setSelect_err (l : Level) (s : State) : (s.setSelect l).err = s.err := rfl
@[simp] theorem State.setSelect_pollcnt (l : Level) (s : State) : (s.setSelect l).pollcnt = s.pollcnt := rfl
@[simp] theorem State.setSelect_gcnt (l : Level) (s : State) : (s.setSelect l).gcnt = s.gcnt := rfl
@[simp] theorem State.setSelect_rdata (l : Level) (s : State) : (s.setSelect l).rdata = s.rdata := rfl
@[simp] theorem State.setSelect_rsp (l : Level) (s : State) : (s.setSelect l).rsp = s.rsp := rfl
@[simp] theorem State.setSelect_host (l : Level) (s : State) : (s.setSelect l).host = s.host := rfl
@[simp] theorem State.setSelect_chip (l : Level) (s : State) : (s.setSelect l).chip = s.chip.onSelect s.params l := rfl
@[simp] theorem State.setSelect_answers (l : Level) (s : State) : (s.setSelect l).answers = s.answers := rfl
@[simp] theorem State.setSelect_draws (l : Level) (s : State) : (s.setSelect l).draws = s.draws := rfl
@[simp] theorem State.setSelect_async (l : Level) (s : State) : (s.setSelect l).async = s.async := rfl
@[simp] theorem State.setSelect_trace (l : Level) (s : State) : (s.setSelect l).trace = s.trace ++ [.cs l] := rfl

/-! ### `takeAnswer` -/

@[simp] theorem State.takeAnswer_params (s : State) : (s.takeAnswer).params = s.params := rfl
@[simp] theorem State.takeAnswer_op (s : State) : (s.takeAnswer).op = s.op := rfl
@[simp] theorem State.takeAnswer_addr (s : State) : (s.takeAnswer).addr = s.addr := rfl
@[simp] theorem State.takeAnswer_len (s : State) : (s.takeAnswer).len = s.len := rfl
@[simp] theorem State.takeAnswer_pagebuf (s : State) : (s.takeAnswer).pagebuf = s.pagebuf := rfl
@[simp] theorem State.takeAnswer_phase (s : State) : (s.takeAnswer).phase = s.phase := rfl
@[simp] theorem State.takeAnswer_seq (s : State) : (s.takeAnswer).seq = s.seq := rfl
@[simp] theorem State.takeAnswer_cs (s : State) : (s.takeAnswer).cs = s.cs := rfl
@[simp] theorem State.takeAnswer_status (s : State) : (s.takeAnswer).status = s.status := rfl
@[simp] theorem State.takeAnswer_err (s : State) : (s.takeAnswer).err = s.err := rfl
@[simp] theorem State.takeAnswer_pollcnt (s : State) : (s.takeAnswer).pollcnt = s.pollcnt := rfl
@[simp] theorem State.takeAnswer_gcnt (s : State) : (s.takeAnswer).gcnt = s.gcnt := rfl
@[simp] theorem State.takeAnswer_rdata (s : State) : (s.takeAnswer).rdata = s.rdata := rfl
@[simp] theorem State.takeAnswer_rsp (s : State) : (s.takeAnswer).rsp = s.rsp := rfl
@[simp] theorem State.takeAnswer_host (s : State) : (s.takeAnswer).host = s.host := rfl
@[simp] theorem State.takeAnswer_chip (s : State) : (s.takeAnswer).chip = s.chip := rfl
@[simp] theorem State.takeAnswer_answers (s : State) : (s.takeAnswer).answers = s.answers.tail := rfl
@[simp] theorem State.takeAnswer_draws (s : State) : (s.takeAnswer).draws = s.draws + 1 := rfl
@[simp] theorem State.takeAnswer_async (s : State) : (s.takeAnswer).async = s.async := rfl
@[simp] theorem State.takeAnswer_trace (s : State) : (s.takeAnswer).trace = s.trace := rfl

/-! ### `exchanged` -/

@[simp] theorem State.exchanged_params (tx : List Byte) (s : State) : (s.exchanged tx).params = s.params := rfl
@[simp] theorem State.exchanged_op (tx : List Byte) (s : State) : (s.exchanged tx).op = s.op := rfl
@[simp] theorem State.exchanged_addr (tx : List Byte) (s : State) : (s.exchanged tx).addr = s.addr := rfl
@[simp] theorem State.exchanged_len (tx : List Byte) (s : State) : (s.exchanged tx).len = s.len := rfl
@[simp] theorem State.exchanged_pagebuf (tx : List Byte) (s : State) : (s.exchanged tx).pagebuf = s.pagebuf := rfl
@[simp] theorem State.exchanged_phase (tx : List Byte) (s : State) : (s.exchanged tx).phase = s.phase := rfl
@[simp] theorem State.exchanged_seq (tx : List Byte) (s : State) : (s.exchanged tx).seq = s.seq := rfl
@[simp] theorem State.exchanged_cs (tx : List Byte) (s : State) : (s.exchanged tx).cs = s.cs := rfl
@[simp] theorem State.exchanged_status (tx : List Byte) (s : State) : (s.exchanged tx).status = s.status := rfl
@[simp] theorem State.exchanged_err (tx : List Byte) (s : State) : (s.exchanged tx).err = s.err := rfl
@[simp] theorem State.exchanged_pollcnt (tx : List Byte) (s : State) : (s.exchanged tx).pollcnt = s.pollcnt := rfl
@[simp] theorem State.exchanged_gcnt (tx : List Byte) (s : State) : (s.exchanged tx).gcnt = s.gcnt := rfl
@[simp] theorem State.exchanged_rdata (tx : List Byte) (s : State) : (s.exchanged tx).rdata = s.rdata := rfl
@[simp] theorem State.exchanged_rsp (tx : List Byte) (s : State) : (s.exchanged tx).rsp = s.rsp := rfl
@[simp] theorem State.exchanged_host (tx : List Byte) (s : State) : (s.exchanged tx).host = s.host := rfl
@[simp] theorem State.exchanged_chip (tx : List Byte) (s : State) : (s.exchanged tx).chip = if s.selected then s.chipAtCall.receive s.params tx else s.chipAtCall := rfl
@[simp] theorem State.exchanged_answers (tx : List Byte) (s : State) : (s.exchanged tx).answers = s.answers.tail := rfl
@[simp] theorem State.exchanged_draws (tx : List Byte) (s : State) : (s.exchanged tx).draws = s.draws + 1 := rfl
@[simp] theorem State.exchanged_async (tx : List Byte) (s : State) : (s.exchanged tx).async = s.async := rfl
@[simp] theorem State.exchanged_trace (tx : List Byte) (s : State) : (s.exchanged tx).trace = s.trace ++ [.xfer tx (s.received tx)] := rfl

/-! ### `faulted` -/

@[simp] theorem State.faulted_params (tx : List Byte) (s : State) : (s.faulted tx).params = s.params := rfl
@[simp] theorem State.faulted_op (tx : List Byte) (s : State) : (s.faulted tx).op = s.op := rfl
@[simp] theorem State.faulted_addr (tx : List Byte) (s : State) : (s.faulted tx).addr = s.addr := rfl
@[simp] theorem State.faulted_len (tx : List Byte) (s : State) : (s.faulted tx).len = s.len := rfl
@[simp] theorem State.faulted_pagebuf (tx : List Byte) (s : State) : (s.faulted tx).pagebuf = s.pagebuf := rfl
@[simp] theorem State.faulted_phase (tx : List Byte) (s : State) : (s.faulted tx).phase = s.phase := rfl
@[simp] theorem State.faulted_seq (tx : List Byte) (s : State) : (s.faulted tx).seq = s.seq := rfl
@[simp] theorem State.faulted_cs (tx : List Byte) (s : State) : (s.faulted tx).cs = s.cs := rfl
@[simp] theorem State.faulted_status (tx : List Byte) (s : State) : (s.faulted tx).status = s.status := rfl
@[simp] theorem State.faulted_err (tx : List Byte) (s : State) : (s.faulted tx).err = s.err := rfl
@[simp] theorem State.faulted_pollcnt (tx : List Byte) (s : State) : (s.faulted tx).pollcnt = s.pollcnt := rfl
@[simp] theorem State.faulted_gcnt (tx : List Byte) (s : State) : (s.faulted tx).gcnt = s.gcnt := rfl
@[simp] theorem State.faulted_rdata (tx : List Byte) (s : State) : (s.faulted tx).rdata = s.rdata := rfl
@[simp] theorem State.faulted_rsp (tx : List Byte) (s : State) : (s.faulted tx).rsp = s.rsp := rfl
@[simp] theorem State.faulted_host (tx : List Byte) (s : State) : (s.faulted tx).host = s.host := rfl
@[simp] theorem State.faulted_chip (tx : List Byte) (s : State) : (s.faulted tx).chip =
    if s.selected then s.chipAtCall.faulted s.params s.unit tx else s.chipAtCall := rfl
@[simp] theorem State.faulted_answers (tx : List Byte) (s : State) : (s.faulted tx).answers = s.answers.tail := rfl
@[simp] theorem State.faulted_draws (tx : List Byte) (s : State) : (s.faulted tx).draws = s.draws + 1 := rfl
@[simp] theorem State.faulted_async (tx : List Byte) (s : State) : (s.faulted tx).async = s.async := rfl
@[simp] theorem State.faulted_trace (tx : List Byte) (s : State) : (s.faulted tx).trace = s.trace ++ [.xferFault tx] := rfl

/-! ### `doubt` -/

@[simp] theorem State.doubt_params (s : State) : s.doubt.params = s.params := by unfold State.doubt; split <;> rfl
@[simp] theorem State.doubt_op (s : State) : s.doubt.op = s.op := by unfold State.doubt; split <;> rfl
@[simp] theorem State.doubt_addr (s : State) : s.doubt.addr = s.addr := by unfold State.doubt; split <;> rfl
@[simp] theorem State.doubt_len (s : State) : s.doubt.len = s.len := by unfold State.doubt; split <;> rfl
@[simp] theorem State.doubt_pagebuf (s : State) : s.doubt.pagebuf = s.pagebuf := by unfold State.doubt; split <;> rfl
@[simp] theorem State.doubt_phase (s : State) : s.doubt.phase = s.phase := by unfold State.doubt; split <;> rfl
@[simp] theorem State.doubt_seq (s : State) : s.doubt.seq = s.seq := by unfold State.doubt; split <;> rfl
@[simp] theorem State.doubt_cs (s : State) : s.doubt.cs = s.cs := by unfold State.doubt; split <;> rfl
@[simp] theorem State.doubt_status (s : State) : s.doubt.status = s.status := by unfold State.doubt; split <;> rfl
@[simp] theorem State.doubt_err (s : State) : s.doubt.err = s.err := by unfold State.doubt; split <;> rfl
@[simp] theorem State.doubt_pollcnt (s : State) : s.doubt.pollcnt = s.pollcnt := by unfold State.doubt; split <;> rfl
@[simp] theorem State.doubt_gcnt (s : State) : s.doubt.gcnt = s.gcnt := by unfold State.doubt; split <;> rfl
@[simp] theorem State.doubt_rdata (s : State) : s.doubt.rdata = s.rdata := by unfold State.doubt; split <;> rfl
@[simp] theorem State.doubt_rsp (s : State) : s.doubt.rsp = s.rsp := by unfold State.doubt; split <;> rfl
@[simp] theorem State.doubt_host (s : State) : s.doubt.host = s.host := by unfold State.doubt; split <;> rfl
@[simp] theorem State.doubt_answers (s : State) : s.doubt.answers = s.answers := by unfold State.doubt; split <;> rfl
@[simp] theorem State.doubt_draws (s : State) : s.doubt.draws = s.draws := by unfold State.doubt; split <;> rfl
@[simp] theorem State.doubt_async (s : State) : s.doubt.async = s.async := by unfold State.doubt; split <;> rfl
@[simp] theorem State.doubt_trace (s : State) : s.doubt.trace = s.trace := by unfold State.doubt; split <;> rfl

/-- Only the operation's unit decides what a failure does to the chip. -/
theorem State.doubt_chip (s : State) :
    s.doubt.chip = match s.unit with
      | some (a, n) => s.chip.doubt s.params a n
      | none => s.chip := by
  unfold State.doubt
  split <;> simp_all

/-! ### `reset` and the reset input -/

@[simp] theorem blankPage_length : blankPage.length = pageSize := by simp [blankPage]
@[simp] theorem State.reset_params : State.reset.params = instanceParams := rfl
@[simp] theorem State.reset_op : State.reset.op = .read := rfl
@[simp] theorem State.reset_addr : State.reset.addr = 0#24 := rfl
@[simp] theorem State.reset_len : State.reset.len = 0 := rfl
@[simp] theorem State.reset_pagebuf : State.reset.pagebuf = blankPage := rfl
@[simp] theorem State.reset_phase : State.reset.phase = .idle := rfl
@[simp] theorem State.reset_seq : State.reset.seq = .main 0 := rfl
@[simp] theorem State.reset_cs : State.reset.cs = .high := rfl
@[simp] theorem State.reset_status : State.reset.status = 0x00#8 := rfl
@[simp] theorem State.reset_err : State.reset.err = .ok := rfl
@[simp] theorem State.reset_pollcnt : State.reset.pollcnt = 0 := rfl
@[simp] theorem State.reset_gcnt : State.reset.gcnt = 0 := rfl
@[simp] theorem State.reset_rdata : State.reset.rdata = [] := rfl
@[simp] theorem State.reset_rsp : State.reset.rsp = none := rfl
@[simp] theorem State.reset_host : State.reset.host = [] := rfl
@[simp] theorem State.reset_chip : State.reset.chip = Chip.powerOn := rfl
@[simp] theorem State.reset_answers : State.reset.answers = [] := rfl
@[simp] theorem State.reset_draws : State.reset.draws = 0 := rfl
@[simp] theorem State.reset_async : State.reset.async = [] := rfl
@[simp] theorem State.reset_trace : State.reset.trace = [.reset, .cs .high] := rfl
@[simp] theorem State.resetInput_params (s : State) : s.resetInput.params = s.params := rfl
@[simp] theorem State.resetInput_op (s : State) : s.resetInput.op = .read := rfl
@[simp] theorem State.resetInput_addr (s : State) : s.resetInput.addr = 0#24 := rfl
@[simp] theorem State.resetInput_len (s : State) : s.resetInput.len = 0 := rfl
@[simp] theorem State.resetInput_pagebuf (s : State) : s.resetInput.pagebuf = blankPage := rfl
@[simp] theorem State.resetInput_phase (s : State) : s.resetInput.phase = .idle := rfl
@[simp] theorem State.resetInput_seq (s : State) : s.resetInput.seq = .main 0 := rfl
@[simp] theorem State.resetInput_cs (s : State) : s.resetInput.cs = .high := rfl
@[simp] theorem State.resetInput_status (s : State) : s.resetInput.status = 0x00#8 := rfl
@[simp] theorem State.resetInput_err (s : State) : s.resetInput.err = .ok := rfl
@[simp] theorem State.resetInput_pollcnt (s : State) : s.resetInput.pollcnt = 0 := rfl
@[simp] theorem State.resetInput_gcnt (s : State) : s.resetInput.gcnt = 0 := rfl
@[simp] theorem State.resetInput_rdata (s : State) : s.resetInput.rdata = [] := rfl
@[simp] theorem State.resetInput_rsp (s : State) : s.resetInput.rsp = none := rfl
@[simp] theorem State.resetInput_host (s : State) : s.resetInput.host = s.host := rfl
@[simp] theorem State.resetInput_chip (s : State) : s.resetInput.chip = s.chipAfterReset := rfl
@[simp] theorem State.resetInput_answers (s : State) : s.resetInput.answers = s.answers := rfl
@[simp] theorem State.resetInput_draws (s : State) : s.resetInput.draws = s.draws := rfl
@[simp] theorem State.resetInput_async (s : State) : s.resetInput.async = s.async := rfl
@[simp] theorem State.resetInput_trace (s : State) : s.resetInput.trace = s.trace ++ [.reset, .cs .high] := rfl

end Sys2Proof.Machine
end

