-- ==== Sys2Proof/Laws/Memory.lean ====
section
/-! SUPPORT. The laws of the flash array (spec/20_memory.md R70): what a byte reads as after a run of
bytes was replaced, and that every operation keeps the canonical form. -/

namespace Sys2Proof.Machine

open Config

@[simp] theorem Memory.get?_nil (a : Nat) : Memory.get? [] a = none := rfl

theorem Memory.get?_cons (c : Host.Cell) (m : Memory) (a : Nat) :
    Memory.get? (c :: m) a = if c.1 = a then some c.2 else Memory.get? m a := rfl

theorem Memory.get?_append (m n : Memory) (a : Nat) :
    Memory.get? (m ++ n) a = (Memory.get? m a).or (Memory.get? n a) := by
  induction m with
  | nil => simp
  | cons c m ih =>
    rw [List.cons_append, Memory.get?_cons, Memory.get?_cons, ih]
    split <;> simp

/-- Dropping cells of other addresses does not change what an address reads as. -/
theorem Memory.get?_filter_keeps (m : Memory) (a : Nat) (keep : Host.Cell → Bool)
    (h : ∀ c : Host.Cell, c.1 = a → keep c = true) :
    Memory.get? (m.filter keep) a = Memory.get? m a := by
  induction m with
  | nil => rfl
  | cons c m ih =>
    by_cases hc : c.1 = a
    · rw [List.filter_cons_of_pos (h c hc), Memory.get?_cons, Memory.get?_cons, if_pos hc, if_pos hc]
    · rw [Memory.get?_cons, if_neg hc, ← ih]
      by_cases hk : keep c = true
      · rw [List.filter_cons_of_pos hk, Memory.get?_cons, if_neg hc]
      · rw [List.filter_cons_of_neg hk]

/-- Dropping every cell of an address leaves it unlisted. -/
theorem Memory.get?_filter_drops (m : Memory) (a : Nat) (keep : Host.Cell → Bool)
    (h : ∀ c : Host.Cell, c.1 = a → keep c = false) :
    Memory.get? (m.filter keep) a = none := by
  induction m with
  | nil => rfl
  | cons c m ih =>
    by_cases hk : keep c = true
    · rw [List.filter_cons_of_pos hk, Memory.get?_cons, ih]
      have hne : c.1 ≠ a := fun hc => by simp [h c hc] at hk
      simp [hne]
    · rw [List.filter_cons_of_neg hk, ih]

theorem Memory.get?_cells (base : Nat) (bytes : List Byte) (a : Nat) :
    Memory.get? (Memory.cells base bytes) a = if base ≤ a then bytes[a - base]? else none := by
  induction bytes generalizing base with
  | nil => simp [Memory.cells]
  | cons b rest ih =>
    rw [Memory.cells, Memory.get?_cons, ih]
    by_cases h0 : base = a
    · simp [h0]
    · by_cases h1 : base + 1 ≤ a
      · have h2 : a - base = a - (base + 1) + 1 := by omega
        simp [h0, h1, h2, show base ≤ a by omega]
      · simp [h0, h1, show ¬ base ≤ a by omega]

/-- `MemWrite` replaces exactly its bytes: inside the run the new byte, outside what was there. -/
theorem Memory.get?_put (m : Memory) (base : Nat) (bytes : List Byte) (a : Nat) :
    (m.put base bytes).get? a =
      if base ≤ a ∧ a < base + bytes.length then bytes[a - base]? else m.get? a := by
  rw [Memory.put, Memory.get?_append, Memory.get?_append, Memory.get?_cells]
  by_cases hlo : base ≤ a
  · have hdrop : Memory.get? (m.filter (fun c => decide (c.1 < base))) a = none :=
      Memory.get?_filter_drops m a _ (fun c hc => by simp; omega)
    rw [hdrop, if_pos hlo]
    by_cases hhi : a < base + bytes.length
    · rw [if_pos ⟨hlo, hhi⟩, List.getElem?_eq_getElem (by omega)]
      rfl
    · have hkeep : Memory.get? (m.filter (fun c => decide (base + bytes.length ≤ c.1))) a = m.get? a :=
        Memory.get?_filter_keeps m a _ (fun c hc => by simp; omega)
      rw [if_neg (fun h => hhi h.2), List.getElem?_eq_none (by omega), hkeep]
      rfl
  · have hkeep : Memory.get? (m.filter (fun c => decide (c.1 < base))) a = m.get? a :=
      Memory.get?_filter_keeps m a _ (fun c hc => by simp; omega)
    have hdrop : Memory.get? (m.filter (fun c => decide (base + bytes.length ≤ c.1))) a = none :=
      Memory.get?_filter_drops m a _ (fun c hc => by simp; omega)
    rw [hkeep, hdrop, if_neg hlo, if_neg (fun h => hlo h.1)]
    simp

theorem Memory.mem_cells {base : Nat} {bytes : List Byte} {c : Host.Cell} (h : c ∈ Memory.cells base bytes) :
    base ≤ c.1 ∧ c.1 < base + bytes.length := by
  induction bytes generalizing base with
  | nil => simp [Memory.cells] at h
  | cons b rest ih =>
    rw [Memory.cells, List.mem_cons] at h
    rcases h with rfl | h
    · simp
    · have := ih h
      simp only [List.length_cons]
      omega

theorem Memory.cells_rising (base : Nat) (bytes : List Byte) :
    (Memory.cells base bytes).Pairwise (fun c d => c.1 < d.1) := by
  induction bytes generalizing base with
  | nil => simp [Memory.cells]
  | cons b rest ih =>
    rw [Memory.cells, List.pairwise_cons]
    exact ⟨fun c hc => by have := (Memory.mem_cells hc).1; simp only; omega, ih (base + 1)⟩

/-- The empty array is in canonical form. -/
theorem Memory.wf_nil : Memory.wf [] := by simp [Memory.wf]

/-- The array of the reset state is in canonical form. -/
theorem reset_flash_wf : State.reset.chip.flash.wf := Memory.wf_nil

/-- `MemWrite` inside the flash space keeps the canonical form. -/
theorem Memory.wf_put {m : Memory} (hm : m.wf) {base : Nat} {bytes : List Byte}
    (h : base + bytes.length ≤ flashSpace) : (m.put base bytes).wf := by
  refine ⟨?_, ?_⟩
  · rw [Memory.put, List.pairwise_append, List.pairwise_append]
    refine ⟨⟨hm.1.sublist List.filter_sublist, Memory.cells_rising base bytes, ?_⟩,
      hm.1.sublist List.filter_sublist, ?_⟩
    · intro c hc d hd
      have := (Memory.mem_cells hd).1
      simp only [List.mem_filter, decide_eq_true_eq] at hc
      omega
    · intro c hc d hd
      simp only [List.mem_filter, decide_eq_true_eq] at hd
      rw [List.mem_append] at hc
      rcases hc with hc | hc
      · simp only [List.mem_filter, decide_eq_true_eq] at hc
        omega
      · have := (Memory.mem_cells hc).2
        omega
  · intro c hc
    rw [Memory.put, List.mem_append, List.mem_append] at hc
    rcases hc with (hc | hc) | hc
    · exact hm.2 c (List.mem_of_mem_filter hc)
    · have := (Memory.mem_cells hc).2
      omega
    · exact hm.2 c (List.mem_of_mem_filter hc)

end Sys2Proof.Machine
end

