-- ==== Sys2Proof/Laws/Chip.lean ====
section
/-! SUPPORT. The laws of the chip: lengths, what each update leaves alone, and that every update keeps
the array's canonical form (spec/20_memory.md R70 to R77). -/

namespace Sys2Proof.Machine

open Config

@[simp] theorem Chip.forget_flash (c : Chip) : c.forget.flash = [] := rfl
@[simp] theorem Chip.forget_rx (c : Chip) : c.forget.rx = c.rx := rfl
@[simp] theorem Chip.lose_flash (c : Chip) : c.lose.flash = [] := rfl
@[simp] theorem Chip.lose_work (c : Chip) : c.lose.work = .unknown := rfl
@[simp] theorem Chip.lose_rx (c : Chip) : c.lose.rx = c.rx := rfl
@[simp] theorem Chip.lose_conforms (c : Chip) : c.lose.conforms = false := rfl

@[simp] theorem Chip.lose_cut (c : Chip) : c.lose.cut = c.cut := rfl

@[simp] theorem Chip.scramble_epoch (a n : Nat) (c : Chip) : (c.scramble a n).epoch = c.epoch := rfl
@[simp] theorem Chip.scramble_fresh (a n : Nat) (c : Chip) : (c.scramble a n).fresh = c.fresh + 1 := rfl
@[simp] theorem Chip.scramble_wel (a n : Nat) (c : Chip) : (c.scramble a n).wel = c.wel := rfl
@[simp] theorem Chip.scramble_cbusy (a n : Nat) (c : Chip) : (c.scramble a n).cbusy = c.cbusy := rfl
@[simp] theorem Chip.scramble_work (a n : Nat) (c : Chip) : (c.scramble a n).work = c.work := rfl
@[simp] theorem Chip.scramble_rx (a n : Nat) (c : Chip) : (c.scramble a n).rx = c.rx := rfl
@[simp] theorem Chip.scramble_cut (a n : Nat) (c : Chip) : (c.scramble a n).cut = c.cut := rfl
@[simp] theorem Chip.scramble_conforms (a n : Nat) (c : Chip) : (c.scramble a n).conforms = c.conforms := rfl

/-- Inside the unit the bytes are free values, outside what they were. -/
theorem Chip.scramble_byteAt (a n : Nat) (c : Chip) (x : Nat) :
    (c.scramble a n).byteAt x = if a ≤ x ∧ x < a + n then flashByte (c.fresh + 1) x else c.byteAt x := by
  simp only [Chip.byteAt, Chip.scramble, Memory.get?_put, List.length_map, List.length_range]
  split
  · rename_i h
    rw [List.getElem?_map, List.getElem?_range (by omega)]
    simp only [Option.map_some, Option.getD_some]
    congr 1
    omega
  · rfl

/-- Inside the capacity the bytes the unit can have are free values, every other byte is what it was. -/
theorem Chip.spoil_byteAt (p : Params) (a n : Nat) (c : Chip) (x : Nat) :
    (c.spoil p a n).byteAt x =
      if unitFirst a n ≤ x ∧ x < a + n ∧ x < p.capacity then flashByte (c.fresh + 1) x else c.byteAt x := by
  rw [Chip.spoil, Chip.scramble_byteAt]
  congr 1
  simp only [eq_iff_iff]
  omega

@[simp] theorem Chip.spoil_wel (p : Params) (a n : Nat) (c : Chip) : (c.spoil p a n).wel = c.wel := rfl
@[simp] theorem Chip.spoil_cbusy (p : Params) (a n : Nat) (c : Chip) : (c.spoil p a n).cbusy = c.cbusy := rfl
@[simp] theorem Chip.spoil_work (p : Params) (a n : Nat) (c : Chip) : (c.spoil p a n).work = c.work := rfl
@[simp] theorem Chip.spoil_epoch (p : Params) (a n : Nat) (c : Chip) : (c.spoil p a n).epoch = c.epoch := rfl
@[simp] theorem Chip.spoil_fresh (p : Params) (a n : Nat) (c : Chip) : (c.spoil p a n).fresh = c.fresh + 1 := rfl
@[simp] theorem Chip.spoil_rx (p : Params) (a n : Nat) (c : Chip) : (c.spoil p a n).rx = c.rx := rfl
@[simp] theorem Chip.spoil_cut (p : Params) (a n : Nat) (c : Chip) : (c.spoil p a n).cut = c.cut := rfl
@[simp] theorem Chip.spoil_conforms (p : Params) (a n : Nat) (c : Chip) : (c.spoil p a n).conforms = c.conforms := rfl

/-- Inside the contract a failed operation leaves its unit in doubt and nothing else changed. -/
theorem Chip.doubt_kept {p : Params} {a n : Nat} {c : Chip} (hc : c.conforms = true) (ha : a % n = 0)
    (hn : a + n ≤ p.capacity) (hb : c.cbusy = false ∨ c.work.range p = some (a, n)) :
    c.doubt p a n = { c.scramble a n with work := .doubtful a n } := by
  rw [Chip.doubt, if_pos]
  rcases hb with hb | hb <;> simp [hc, ha, hn, hb]

/-- Everything a failed operation can do to the chip. -/
theorem Chip.doubt_cases (p : Params) (a n : Nat) (c : Chip) :
    (a + n ≤ p.capacity ∧ c.doubt p a n = { c.scramble a n with work := .doubtful a n }) ∨
      c.doubt p a n = c.lose := by
  unfold Chip.doubt
  split
  · rename_i h
    simp only [Bool.and_eq_true, decide_eq_true_eq] at h
    exact .inl ⟨h.1.2, rfl⟩
  · exact .inr rfl

@[simp] theorem Chip.doubt_rx (p : Params) (a n : Nat) (c : Chip) : (c.doubt p a n).rx = c.rx := by
  rcases Chip.doubt_cases p a n c with ⟨-, h⟩ | h <;> rw [h] <;> rfl

@[simp] theorem Chip.doubt_cut (p : Params) (a n : Nat) (c : Chip) : (c.doubt p a n).cut = c.cut := by
  rcases Chip.doubt_cases p a n c with ⟨-, h⟩ | h <;> rw [h] <;> rfl

/-- In a destructive operation a fault, of a status read or with the chip not busy, leaves the unit in
doubt, WEL and CBUSY free, and the bracket cut. -/
theorem Chip.faulted_some {p : Params} {a n : Nat} {tx : List Byte} {c : Chip}
    (h : c.cbusy = false ∨ (c.rx ++ tx).head? = some opReadStatus) :
    c.faulted p (some (a, n)) tx =
      { c.doubt p a n with wel := chipWel (c.fresh + 1), cbusy := chipBusy (c.fresh + 1), cut := true } := by
  simp only [Chip.faulted]
  rw [if_pos h]

@[simp] theorem Chip.doWork_rx (p : Params) (c : Chip) : (c.doWork p).rx = c.rx := by
  unfold Chip.doWork; split <;> rfl

@[simp] theorem Chip.complete_rx (p : Params) (c : Chip) : (c.complete p).rx = c.rx := by
  unfold Chip.complete; split
  · split
    · exact Chip.doWork_rx p c
    · rfl
  · rfl

@[simp] theorem Chip.complete_cut (p : Params) (c : Chip) : (c.complete p).cut = c.cut := by
  unfold Chip.complete Chip.doWork; split_ifs <;> first | rfl | (split <;> rfl)

@[simp] theorem Chip.receive_cut (p : Params) (c : Chip) (tx : List Byte) : (c.receive p tx).cut = c.cut := by
  unfold Chip.receive; split <;> rfl

@[simp] theorem Chip.receive_rx (p : Params) (c : Chip) (tx : List Byte) :
    (c.receive p tx).rx = c.rx ++ tx := by
  unfold Chip.receive; split <;> rfl

@[simp] theorem Chip.beginBracket_cut (c : Chip) : c.beginBracket.cut = false := rfl
@[simp] theorem Chip.endBracket_cut (p : Params) (c : Chip) : (c.endBracket p).cut = false := rfl
@[simp] theorem Chip.beginBracket_rx (c : Chip) : c.beginBracket.rx = [] := rfl
@[simp] theorem Chip.endBracket_rx (p : Params) (c : Chip) : (c.endBracket p).rx = [] := rfl

@[simp] theorem Chip.programmed_length (c : Chip) (a : Nat) (d : List Byte) :
    (c.programmed a d).length = d.length := by
  induction d generalizing a with
  | nil => rfl
  | cons b rest ih => simp [Chip.programmed, ih]

theorem Chip.programmed_getElem? (c : Chip) (a : Nat) (d : List Byte) (i : Nat) :
    (c.programmed a d)[i]? = d[i]?.map (fun b => c.byteAt (a + i) &&& b) := by
  induction d generalizing a i with
  | nil => simp [Chip.programmed]
  | cons b rest ih =>
    cases i with
    | zero => simp [Chip.programmed]
    | succ i => simp [Chip.programmed, ih, Nat.add_comm, Nat.add_left_comm]

@[simp] theorem Chip.reply_length (p : Params) (c : Chip) (noise : Nat → Byte) (tx : List Byte) :
    (c.reply p noise tx).length = tx.length := by
  simp [Chip.reply]

@[simp] theorem Chip.memRead_length (c : Chip) (a n : Nat) : (c.memRead a n).length = n := by
  simp [Chip.memRead]

theorem Chip.good_lose (p : Params) (c : Chip) : c.lose.good p := ⟨Memory.wf_nil, trivial⟩

theorem Chip.good_rx {p : Params} {c : Chip} (h : c.good p) (rx : List Byte) : Chip.good p { c with rx := rx } := h

theorem Chip.good_complete {p : Params} (hp : p.capacity ≤ flashSpace) {c : Chip} (h : c.good p) :
    (c.complete p).good p := by
  obtain ⟨hf, hw⟩ := h
  unfold Chip.complete
  split
  · split
    · unfold Chip.doWork
      split <;> rename_i hk
      · exact ⟨Memory.wf_nil, trivial⟩
      · simp only [hk] at hw
        exact ⟨Memory.wf_put hf (by simp; omega), trivial⟩
      · simp only [hk] at hw
        exact ⟨Memory.wf_put hf (by simp; omega), trivial⟩
      · simp only [hk] at hw
        exact ⟨Memory.wf_put hf (by simp; omega), trivial⟩
    · exact ⟨hf, hw⟩
  · exact Chip.good_lose p c

theorem Chip.good_doubt {p : Params} (hp : p.capacity ≤ flashSpace) {c : Chip} (h : c.good p) (a n : Nat) :
    (c.doubt p a n).good p := by
  rcases Chip.doubt_cases p a n c with ⟨hn, hd⟩ | hd <;> rw [hd]
  · exact ⟨Memory.wf_put h.1 (by simp; omega), hn⟩
  · exact Chip.good_lose p c

theorem Chip.good_spoil {p : Params} (hp : p.capacity ≤ flashSpace) {c : Chip} (h : c.good p) {a : Nat}
    (ha : a < flashSpace) (n : Nat) : (c.spoil p a n).good p := by
  refine ⟨Memory.wf_put h.1 ?_, h.2⟩
  simp only [List.length_map, List.length_range, unitFirst]
  split <;> omega

theorem Chip.good_faulted {p : Params} (hp : p.capacity ≤ flashSpace) {c : Chip} (h : c.good p)
    (unit : Option (Nat × Nat)) (tx : List Byte) : (c.faulted p unit tx).good p := by
  unfold Chip.faulted
  split
  · split
    · exact Chip.good_doubt hp h _ _
    · exact Chip.good_lose p c
  · exact Chip.good_lose p c

theorem Chip.good_receive {p : Params} {c : Chip} (h : c.good p) (tx : List Byte) : (c.receive p tx).good p := by
  unfold Chip.receive
  split
  · exact Chip.good_rx (Chip.good_lose p c) _
  · exact Chip.good_rx h _

theorem Chip.good_finish {p : Params} {c : Chip} (h : c.good p) : (c.finish p).good p := by
  unfold Chip.finish
  split
  · split
    · exact h
    · exact Chip.good_lose p c
  · split
    · exact h
    · exact Chip.good_lose p c
  · split
    · exact h
    · split
      · rename_i ha
        exact ⟨h.1, by simpa using (by simpa [Chip.accepts] using ha.2.2 : _ ∧ _).2⟩
      · split
        · rename_i ha
          exact ⟨h.1, ha.2.1, by simpa using (by simpa [Chip.accepts] using ha.2.2 : _ ∧ _).2⟩
        · exact Chip.good_lose p c
  · exact Chip.good_lose p c

theorem Chip.good_onSelect {p : Params} {c : Chip} (h : c.good p) (l : Level) : (c.onSelect p l).good p := by
  cases l with
  | low => exact h
  | high =>
    simp only [Chip.onSelect, Chip.endBracket]
    split
    · split
      · exact h
      · exact Chip.good_finish h
    · exact Chip.good_lose p c

end Sys2Proof.Machine
end

