-- ==== Sys2Proof/Laws/Ops.lean ====
section
/-! SUPPORT. What each shared operation does, said once: later proofs cite these and do not unfold the
operations. -/

namespace Sys2Proof.Machine

open Config

/-! ### Conditions -/

@[simp] theorem State.idle_eq_true (s : State) : s.idle = true ↔ s.phase = .idle := by simp [State.idle]
@[simp] theorem State.idle_eq_false (s : State) : s.idle = false ↔ s.phase ≠ .idle := by simp [State.idle]
@[simp] theorem State.selected_eq_true (s : State) : s.selected = true ↔ s.cs = .low := by
  simp [State.selected]
@[simp] theorem State.selected_eq_false (s : State) : s.selected = false ↔ s.cs = .high := by
  cases h : s.cs <;> simp [State.selected, h]

/-- An operation in progress is never at rest, wherever it stands (R25). -/
@[simp] theorem phaseAt_ne_idle (op : Op) (q : Seq) : phaseAt op q ≠ .idle := by
  cases q with
  | exit n => simp [phaseAt]
  | main n => cases op <;> simp only [phaseAt, bracketPhase] <;> split_ifs <;> simp

/-! ### Acceptance and response -/

/-- At rest a request is accepted: R40's assignments, the event `REQ`, and SEQ 0. -/
theorem State.accept_idle {s : State} (h : s.phase = .idle) (r : Request) :
    s.accept r =
      ({ s with
          op := r.op
          addr := truncAddr r.addr
          len := portLen s.params r.len
          pagebuf := acceptPage s.params r s.pagebuf
          err := .ok
          rdata := []
          rsp := none }.emit (.req r)).goTo (.main 0) := by
  unfold State.accept
  rw [if_pos ((State.idle_eq_true s).2 h)]

/-- At any other time a request changes nothing (R42). -/
theorem State.accept_running {s : State} (h : s.phase ≠ .idle) (r : Request) : s.accept r = s := by
  unfold State.accept
  rw [if_neg (by simpa using h)]

/-! ### Transfer calls -/

@[simp] theorem State.received_length (s : State) (tx : List Byte) : (s.received tx).length = tx.length := by
  unfold State.received
  split <;> simp

/-- A call the transport carries out. -/
theorem State.xfer_ok {s : State} (h : (s.answerAt 0).fault = false) (tx : List Byte)
    (k : List Byte → State → State) : s.xfer tx k = k (s.received tx) (s.exchanged tx) := by
  simp [State.xfer, h]

/-- A call the transport faults (R222). -/
theorem State.xfer_fault {s : State} (h : (s.answerAt 0).fault = true) (tx : List Byte)
    (k : List Byte → State → State) : s.xfer tx k = (s.faulted tx).raise .busFault := by
  simp [State.xfer, h]

/-- Everything a call can do. -/
theorem State.xfer_cases (s : State) (tx : List Byte) (k : List Byte → State → State) :
    s.xfer tx k = k (s.received tx) (s.exchanged tx) ∨ s.xfer tx k = (s.faulted tx).raise .busFault := by
  cases h : (s.answerAt 0).fault
  · exact .inl (State.xfer_ok h tx k)
  · exact .inr (State.xfer_fault h tx k)

/-- A call moves the answers on by one. -/
theorem State.answerAt_exchanged (s : State) (tx : List Byte) (j : Nat) :
    (s.exchanged tx).answerAt j = s.answerAt (j + 1) := by
  simp [State.answerAt, Nat.add_assoc, Nat.add_comm 1 j]

/-! ### Delays, checks, the poll test -/

theorem State.delayCycle_zero {s : State} (h : s.gcnt = 0) :
    s.delayCycle = (s.emit (.delay s.params.guardCycles)).advance := by
  simp [State.delayCycle, h]

theorem State.delayCycle_succ {s : State} {n : Nat} (h : s.gcnt = n + 1) :
    s.delayCycle = { s with gcnt := n } := by
  simp [State.delayCycle, h]

theorem State.lenCheck_page {s : State} (h : s.len = pageSize) : s.lenCheck = s.advance := by
  simp [State.lenCheck, State.lenIsPage, h]

theorem State.lenCheck_other {s : State} (h : s.len ≠ pageSize) : s.lenCheck = s.raise .invalidLength := by
  simp [State.lenCheck, State.lenIsPage, h]

theorem State.pollTest_ready {s : State} (h : busy s.status = false) (back : Nat) :
    s.pollTest back = { s with pollcnt := s.pollcnt + 1 }.advance := by
  simp [State.pollTest, h]

theorem State.pollTest_again {s : State} (h : busy s.status = true)
    (hb : s.params.maxPolls.reached (s.pollcnt + 1) = false) (back : Nat) :
    s.pollTest back = { s with pollcnt := s.pollcnt + 1 }.goTo (.main back) := by
  simp [State.pollTest, h, hb]

theorem State.pollTest_timeout {s : State} (h : busy s.status = true)
    (hb : s.params.maxPolls.reached (s.pollcnt + 1) = true) (back : Nat) :
    s.pollTest back = { s with pollcnt := s.pollcnt + 1 }.doubt.raise .timeout := by
  simp [State.pollTest, h, hb]

/-! ### The chip after a failure -/

theorem State.good_doubt {s : State} (hp : s.params.capacity ≤ flashSpace) (h : s.chip.good s.params) :
    s.doubt.chip.good s.params := by
  rw [State.doubt_chip]
  split
  · exact Chip.good_doubt hp h _ _
  · exact h

@[simp] theorem State.doubt_chip_rx (s : State) : s.doubt.chip.rx = s.chip.rx := by
  rw [State.doubt_chip]; split <;> simp

@[simp] theorem State.doubt_chip_cut (s : State) : s.doubt.chip.cut = s.chip.cut := by
  rw [State.doubt_chip]; split <;> simp

theorem State.good_spoiledChip {s : State} (hp : s.params.capacity ≤ flashSpace) (h : s.chip.good s.params) :
    s.spoiledChip.good s.params := by
  have ha : s.addr.toNat < flashSpace := s.addr.isLt
  unfold State.spoiledChip State.unit
  cases s.op
  case sectorErase => exact Chip.good_spoil hp h ha _
  case pageProgram => exact Chip.good_spoil hp h ha _
  all_goals exact h

@[simp] theorem State.spoiledChip_rx (s : State) : s.spoiledChip.rx = s.chip.rx := by
  unfold State.spoiledChip; split <;> rfl

@[simp] theorem State.spoiledChip_cut (s : State) : s.spoiledChip.cut = s.chip.cut := by
  unfold State.spoiledChip; split <;> rfl

/-- What the reset input can do to the chip: nothing, free values in the unit, or the loss of its contract. -/
theorem State.chipAfterReset_cases (s : State) :
    (s.cs = .high ∧ (s.chipAfterReset = s.chip ∨ s.chipAfterReset = s.spoiledChip ∨ s.chipAfterReset = s.chip.lose)) ∨
      (s.cs = .low ∧ s.chipAfterReset = { s.chip.lose with rx := [], cut := false }) := by
  unfold State.chipAfterReset
  cases hc : s.cs
  · exact .inr ⟨rfl, by simp [State.selected, hc]⟩
  · refine .inl ⟨rfl, ?_⟩
    simp only [State.selected, hc]
    split_ifs <;> simp_all

/-! ### The wire decoder reads back what the framer writes -/

theorem decode3_addr3 (a : Nat) : decode3 (addr3 a) = a % 16777216 := by
  simp only [addr3, decode3, BitVec.toNat_ofNat]
  omega

theorem decodeAddressed_addr3 (op : Byte) (mk : FlashAddr → Instr) (a : FlashAddr) :
    decodeAddressed op mk (addr3 a.toNat) = .ok (mk a, []) := by
  have h : decode3 (addr3 a.toNat) = a.toNat := by
    rw [decode3_addr3]
    exact Nat.mod_eq_of_lt a.isLt
  have h3 : decodeAddressed op mk (addr3 a.toNat) = .ok (mk (BitVec.ofNat 24 (decode3 (addr3 a.toNat))), []) := rfl
  rw [h3, h, BitVec.ofNat_toNat, BitVec.setWidth_eq]

/-- The wire command each transfer call belongs to. -/
def Call.instr (a : FlashAddr) : Call → Instr
  | .writeEnable => .writeEnableCmd
  | .status => .readStatusCmd
  | .readFrame => .readCmd a
  | .readData => .readCmd a
  | .eraseFrame => .sectorEraseCmd a
  | .programFrame => .pageProgramCmd a
  | .programData => .pageProgramCmd a

/-- What the sequencer fetches for a transfer call decodes to its wire command. -/
theorem decode_opening (p : Params) (a : FlashAddr) (c : Call) :
    decode p (.wire (c.opening a)) = .ok (c.instr a) := by
  have h3 : ∀ op mk, decodeAddressed op mk (addr3 a.toNat) = .ok (mk a, []) := fun op mk =>
    decodeAddressed_addr3 op mk a
  cases c <;>
    simp [Call.opening, Call.instr, decode, decodeWire, frame, statusExchange, decodeStatus,
      opPageProgram, opRead, opReadStatus, opWriteEnable, opSectorErase, h3, Except.map]

/-! ### One micro-operation -/

/-- At a transfer call the sequencer runs the wire command. -/
theorem microStep_xfer {s : State} {c : Call} (h : microAt s.op s.seq = some (.xfer c)) :
    microStep s = exec (c.instr s.addr) s := by
  simp [microStep, h, decode_opening]

theorem microStep_delay {s : State} (h : microAt s.op s.seq = some .delay) :
    microStep s = .next s.delayCycle := by simp [microStep, h]

theorem microStep_csLow {s : State} (h : microAt s.op s.seq = some .csLow) :
    microStep s = .next (s.setSelect .low).advance := by simp [microStep, h]

theorem microStep_csHigh {s : State} (h : microAt s.op s.seq = some .csHigh) :
    microStep s = .next (s.setSelect .high).advance := by simp [microStep, h]

theorem microStep_lenCheck {s : State} (h : microAt s.op s.seq = some .lenCheck) :
    microStep s = .next s.lenCheck := by simp [microStep, h]

theorem microStep_clearPolls {s : State} (h : microAt s.op s.seq = some .clearPolls) :
    microStep s = .next s.clearPolls := by simp [microStep, h]

theorem microStep_pollTest {s : State} {back : Nat} (h : microAt s.op s.seq = some (.pollTest back)) :
    microStep s = .next (s.pollTest back) := by simp [microStep, h]

theorem microStep_respond {s : State} (h : microAt s.op s.seq = some .respond) :
    microStep s = .next s.respond := by simp [microStep, h]

/-! ### One step -/

/-- With no outside event due, a step is a step of the block. -/
theorem step_block {s : State} (h : s.async = []) : step s = blockStep s := by
  simp [step, stepMachine, h]

theorem blockStep_running {s : State} (h : s.phase ≠ .idle) : blockStep s = microStep s := by
  unfold blockStep
  rw [if_neg (by simpa using h)]

theorem blockStep_idle {s : State} (h : s.phase = .idle) : blockStep s = idleStep s := by
  unfold blockStep
  rw [if_pos ((State.idle_eq_true s).2 h)]

theorem step_running {s : State} (ha : s.async = []) (h : s.phase ≠ .idle) : step s = microStep s := by
  rw [step_block ha, blockStep_running h]

/-! ### Runs -/

theorem State.run_add (k l : Nat) (s : State) : s.run (k + l) = (s.run k).bind (fun t => t.run l) := by
  induction k generalizing s with
  | zero => simp [State.run]
  | succ k ih =>
    rw [Nat.succ_add, State.run, State.run]
    cases step s with
    | next t => exact ih t
    | fault r => rfl
    | refused r => rfl

theorem State.leadsTo_refl (s : State) : s.leadsTo s := ⟨0, rfl⟩

theorem State.leadsTo_trans {s t u : State} (h : s.leadsTo t) (h' : t.leadsTo u) : s.leadsTo u := by
  obtain ⟨k, hk⟩ := h
  obtain ⟨l, hl⟩ := h'
  exact ⟨k + l, by rw [State.run_add, hk]; exact hl⟩

/-- One step, then the rest of a run. -/
theorem State.leadsTo_step {s t u : State} (h : step s = .next t) (h' : t.leadsTo u) : s.leadsTo u := by
  obtain ⟨k, hk⟩ := h'
  exact ⟨k + 1, by rw [State.run, h]; exact hk⟩

end Sys2Proof.Machine
end

