-- ==== Sys2Proof/Laws/PerInstr.lean ====
section
/-! SUPPORT. Laws stated per instruction: the size of an encoded instruction (spec/30_encoding.md R101,
R102, R106). -/

namespace Sys2Proof.Laws.EncodeSize

open Sys2Proof Sys2Proof.Config

/-- A wire command's frame with its placeholder is 1, 2 or 4 bytes long and opens with one of the five
opcodes; a well-formed request's word fits `3 + HOST_ADDR_WIDTH + LEN_WIDTH` bits. -/
def Statement (i : Instr) : Prop :=
  ∀ p : Params, WellFormed p i = true →
    match encode p i with
    | .wire bytes => bytes.length ∈ [1, 2, 4] ∧ ∃ b rest, bytes = b :: rest ∧ isOpcode b = true
    | .port w => w.word < 2 ^ (3 + p.hostAddrWidth + p.lenWidth)

/-- A request word of a code below 8 whose fields fit. -/
theorem requestWord_lt {p : Params} {code addr len : Nat} (hc : code < 8) (h : fieldsFit p addr len = true) :
    requestWord p code addr len < 2 ^ (3 + p.hostAddrWidth + p.lenWidth) := by
  simp only [fieldsFit, Bool.and_eq_true, decide_eq_true_eq] at h
  have hop : code * 2 ^ p.hostAddrWidth + addr < 2 ^ (3 + p.hostAddrWidth) := by
    have : (code + 1) * 2 ^ p.hostAddrWidth ≤ 8 * 2 ^ p.hostAddrWidth := Nat.mul_le_mul_right _ hc
    rw [Nat.succ_mul] at this
    rw [Nat.pow_add]
    omega
  have : (code * 2 ^ p.hostAddrWidth + addr + 1) * 2 ^ p.lenWidth ≤ 2 ^ (3 + p.hostAddrWidth) * 2 ^ p.lenWidth :=
    Nat.mul_le_mul_right _ hop
  rw [Nat.succ_mul] at this
  rw [requestWord, Nat.pow_add _ (3 + p.hostAddrWidth)]
  omega

theorem pageProgramCmd (addr : FlashAddr) : Statement (.pageProgramCmd addr) :=
  fun _ _ => ⟨by simp [frame, addr3], _, _, rfl, by decide⟩
theorem readCmd (addr : FlashAddr) : Statement (.readCmd addr) :=
  fun _ _ => ⟨by simp [frame, addr3], _, _, rfl, by decide⟩
theorem readStatusCmd : Statement .readStatusCmd :=
  fun _ _ => ⟨by simp [frame], _, _, rfl, by decide⟩
theorem writeEnableCmd : Statement .writeEnableCmd :=
  fun _ _ => ⟨by simp [frame], _, _, rfl, by decide⟩
theorem sectorEraseCmd (addr : FlashAddr) : Statement (.sectorEraseCmd addr) :=
  fun _ _ => ⟨by simp [frame, addr3], _, _, rfl, by decide⟩
theorem read (addr len : Nat) : Statement (.read addr len) :=
  fun _ h => requestWord_lt (by decide) h
theorem writeEnable (addr len : Nat) : Statement (.writeEnable addr len) :=
  fun _ h => requestWord_lt (by decide) h
theorem sectorErase (addr len : Nat) : Statement (.sectorErase addr len) :=
  fun _ h => requestWord_lt (by decide) h
theorem pageProgram (addr len : Nat) (payload : List Byte) : Statement (.pageProgram addr len payload) :=
  fun _ h => requestWord_lt (by decide) (by simp only [WellFormed, Bool.and_eq_true] at h; exact h.1)
theorem readStatus (addr len : Nat) : Statement (.readStatus addr len) :=
  fun _ h => requestWord_lt (by decide) h

end Sys2Proof.Laws.EncodeSize
end

