-- ==== Sys2Proof/Laws/Runs.lean ====
section
/-! SUPPORT. Runs of the machine through the parts the micro-programs share (spec/43_flash_driver.md R195):
a guard delay, the two halves of a bracket, one transfer call, the response. -/

namespace Sys2Proof.Machine

open Config

/-- GCNT after a guard delay has ended and control is at `q` (R33). -/
def State.gcntAfterDelay (s : State) (q : Seq) : Nat :=
  if microAt s.op q = some MicroOp.delay then s.params.guardCycles else 0

/-- The state once a guard delay has ended. -/
def State.delayed (s : State) : State :=
  { s with
    gcnt := s.gcntAfterDelay s.seq.next
    seq := s.seq.next
    phase := phaseAt s.op s.seq.next
    trace := s.trace ++ [.delay s.params.guardCycles] }

/-- The state once the bracket whose `select()` begins at `n` is open (R130). -/
def State.opened (s : State) (n : Nat) : State :=
  { s with
    gcnt := s.gcntAfterDelay (.main (n + 3))
    seq := .main (n + 3)
    phase := phaseAt s.op (.main (n + 3))
    cs := .low
    chip := s.chip.beginBracket
    trace := s.trace ++ selectEvents s.params.guardCycles }

/-- The state once the `deselect()` that begins at `n` is done (R131). -/
def State.closed (s : State) (n : Nat) : State :=
  { s with
    gcnt := s.gcntAfterDelay (.main (n + 3))
    seq := .main (n + 3)
    phase := phaseAt s.op (.main (n + 3))
    cs := .high
    chip := s.chip.endBracket s.params
    trace := s.trace ++ deselectEvents s.params.guardCycles }

theorem State.leadsTo_one {s t : State} (h : step s = .next t) : s.leadsTo t :=
  State.leadsTo_step h (State.leadsTo_refl t)

/-- A guard delay ends, whatever is left of it. -/
theorem State.leadsTo_delayed {s : State} (ha : s.async = []) (hp : s.phase ≠ .idle)
    (hm : microAt s.op s.seq = some .delay) : s.leadsTo s.delayed := by
  generalize hk : s.gcnt = k
  induction k generalizing s with
  | zero =>
    apply State.leadsTo_one
    rw [step_running ha hp, microStep_delay hm, State.delayCycle_zero hk]
    simp [State.advance, State.goTo, State.emit, State.delayed, State.gcntAfterDelay, hk]
  | succ k ih =>
    refine State.leadsTo_step (t := { s with gcnt := k }) ?_ (ih (s := { s with gcnt := k }) ha hp hm rfl)
    rw [step_running ha hp, microStep_delay hm, State.delayCycle_succ hk]

theorem State.leadsTo_csLow {s : State} (ha : s.async = []) (hp : s.phase ≠ .idle)
    (hm : microAt s.op s.seq = some .csLow) : s.leadsTo (s.setSelect .low).advance :=
  State.leadsTo_one (by rw [step_running ha hp, microStep_csLow hm])

theorem State.leadsTo_csHigh {s : State} (ha : s.async = []) (hp : s.phase ≠ .idle)
    (hm : microAt s.op s.seq = some .csHigh) : s.leadsTo (s.setSelect .high).advance :=
  State.leadsTo_one (by rw [step_running ha hp, microStep_csHigh hm])

/-- `select()` from position `n`. -/
theorem State.leadsTo_opened {s : State} {n : Nat} (ha : s.async = []) (hp : s.phase ≠ .idle)
    (hq : s.seq = .main n) (h0 : microAt s.op (.main n) = some .delay)
    (h1 : microAt s.op (.main (n + 1)) = some .csLow) (h2 : microAt s.op (.main (n + 2)) = some .delay) :
    s.leadsTo (s.opened n) := by
  refine State.leadsTo_trans (State.leadsTo_delayed ha hp (hq ▸ h0)) ?_
  simp only [State.delayed, hq, Seq.next]
  refine State.leadsTo_trans (State.leadsTo_csLow (by exact ha) (by simp) (by exact h1)) ?_
  refine State.leadsTo_trans (State.leadsTo_delayed (by exact ha) (by simp [State.advance, State.goTo]) ?_) ?_
  · simpa [State.advance, State.goTo, State.setSelect, State.emit, Seq.next] using h2
  · simp only [State.delayed, State.advance, State.goTo, State.setSelect, State.emit, Seq.next,
      State.gcntAfterDelay, Chip.onSelect, List.append_assoc, List.cons_append, List.nil_append]
    exact State.leadsTo_refl _

/-- `deselect()` from position `n`. -/
theorem State.leadsTo_closed {s : State} {n : Nat} (ha : s.async = []) (hp : s.phase ≠ .idle)
    (hq : s.seq = .main n) (h0 : microAt s.op (.main n) = some .delay)
    (h1 : microAt s.op (.main (n + 1)) = some .csHigh) (h2 : microAt s.op (.main (n + 2)) = some .delay) :
    s.leadsTo (s.closed n) := by
  refine State.leadsTo_trans (State.leadsTo_delayed ha hp (hq ▸ h0)) ?_
  simp only [State.delayed, hq, Seq.next]
  refine State.leadsTo_trans (State.leadsTo_csHigh (by exact ha) (by simp) (by exact h1)) ?_
  refine State.leadsTo_trans (State.leadsTo_delayed (by exact ha) (by simp [State.advance, State.goTo]) ?_) ?_
  · simpa [State.advance, State.goTo, State.setSelect, State.emit, Seq.next] using h2
  · simp only [State.delayed, State.advance, State.goTo, State.setSelect, State.emit, Seq.next,
      State.gcntAfterDelay, Chip.onSelect, List.append_assoc, List.cons_append, List.nil_append]
    exact State.leadsTo_refl _

/-- A transfer call is one step, that of its wire command. -/
theorem State.leadsTo_call {s t : State} {c : Call} (ha : s.async = []) (hp : s.phase ≠ .idle)
    (hm : microAt s.op s.seq = some (.xfer c)) (he : exec (c.instr s.addr) s = .next t) : s.leadsTo t :=
  State.leadsTo_one (by rw [step_running ha hp, microStep_xfer hm, he])

/-- The response ends the operation. -/
theorem State.leadsTo_respond {s : State} (ha : s.async = []) (hp : s.phase ≠ .idle)
    (hm : microAt s.op s.seq = some .respond) : s.leadsTo s.respond :=
  State.leadsTo_one (by rw [step_running ha hp, microStep_respond hm])

end Sys2Proof.Machine
end

