-- ==== Sys2Proof/Tests/Slice0.lean ====
section
/-! SUPPORT. Small tests: ill-formed terms, words written out from the encodings of spec/30_encoding.md,
one-step runs with the expected values of spec/95_test_vectors.md, and for each obligation with
hypotheses a concrete state and operands that meet them. -/

namespace Sys2Proof.Tests

open Sys2Proof Sys2Proof.Machine Sys2Proof.Config

/-! ### Small states -/

/-- `GUARD_CYCLES` 0, `MAX_POLLS` 2, the default widths, sectors of 256 bytes, a chip of 1024 bytes. -/
def params : Params := ⟨0, .upTo 1, 32, 16, 0x00#8, 256, 1024⟩

/-- A chip in its contract, not busy, holding 05 09 at 0x000100 (V90). -/
def chip : Chip := ⟨[(256, 0x05#8), (257, 0x09#8)], 0, 0, false, false, .unknown, [], false, true⟩

/-- At rest. -/
def rest : State := { State.reset with params := params, chip := chip }

/-- An answer of the transport that is no fault, with the chip's completion and the free bytes. -/
def good (done : Bool) (rx : List Byte) : Answer := ⟨false, done, rx⟩

/-- In an operation, at micro-operation `n`. -/
def midway (op : Op) (n : Nat) (addr : FlashAddr) (answers : List Answer) : State :=
  { rest with op := op, seq := .main n, phase := phaseAt op (.main n), cs := levelAt op (.main n), addr := addr, answers := answers }

/-- The state a step answers; the given one where it stops. -/
def after (s : State) (r : Result) : State :=
  match r with
  | .next t => t
  | .fault _ => s
  | .refused _ => s

/-! ### Well-formed and ill-formed instructions -/

/-- An address wider than the port. -/
theorem test_address_too_wide : WellFormed params (.read (2 ^ 32) 0) = false := by decide
/-- A length wider than the port. -/
theorem test_length_too_wide : WellFormed params (.read 0 (2 ^ 16)) = false := by decide
/-- A payload that is not `len` bytes long. -/
theorem test_payload_of_other_length : WellFormed params (.pageProgram 0 2 [0xAA#8]) = false := by decide
theorem test_widest_fields_fit : WellFormed params (.sectorErase (2 ^ 32 - 1) (2 ^ 16 - 1)) = true := by decide

/-! ### Decoding, words written out from R101 and R106 -/

theorem test_decode_page_program_cmd :
    decode params (.wire [0b00000010#8, 0x00#8, 0x01#8, 0x00#8]) = .ok (.pageProgramCmd 0x000100#24) := by decide
theorem test_decode_read_cmd :
    decode params (.wire [0b00000011#8, 0xFF#8, 0xFF#8, 0xFF#8]) = .ok (.readCmd 0xFFFFFF#24) := by decide
theorem test_decode_read_status_cmd :
    decode params (.wire [0b00000101#8, 0b00000000#8]) = .ok .readStatusCmd := by decide
theorem test_decode_write_enable_cmd : decode params (.wire [0b00000110#8]) = .ok .writeEnableCmd := by decide
theorem test_decode_sector_erase_cmd :
    decode params (.wire [0b00100000#8, 0x00#8, 0x10#8, 0x00#8]) = .ok (.sectorEraseCmd 0x001000#24) := by decide
/-- P3 operation 2: `0x0010002000000`. -/
theorem test_decode_read : decode params (.port ⟨0x0010002000000, []⟩) = .ok (.read 0x01000200 0) := by decide
/-- P3 operation 3. -/
theorem test_decode_write_enable : decode params (.port ⟨0x1000000000000, []⟩) = .ok (.writeEnable 0 0) := by decide
/-- P1 operation 2. -/
theorem test_decode_sector_erase : decode params (.port ⟨0x2000001000000, []⟩) = .ok (.sectorErase 256 0) := by decide
/-- The word of `page_program(0x000200, 2 bytes)`: op 011, address 0x200, length 2. -/
theorem test_decode_page_program :
    decode params (.port ⟨0x3000002000002, [0xAA#8, 0xBB#8]⟩) = .ok (.pageProgram 0x200 2 [0xAA#8, 0xBB#8]) := by decide
/-- P2 operation 2. -/
theorem test_decode_read_status : decode params (.port ⟨0x4000000000000, []⟩) = .ok (.readStatus 0 0) := by decide

theorem test_no_bytes : decode params (.wire []) = .error .noBytes := by decide
theorem test_other_opcode : decode params (.wire [0x9F#8]) = .error (.notACommand 0x9F#8) := by decide
theorem test_address_cut_short : decode params (.wire [0x20#8, 0x00#8]) = .error (.truncated 0x20#8) := by decide
theorem test_placeholder_is_zero :
    decode params (.wire [0x05#8, 0x01#8]) = .error (.badPlaceholder 0x01#8) := by decide
/-- V104: `req_op` = 110. -/
theorem test_reserved_op : decode params (.port ⟨0x6000000000000, []⟩) = .error (.reservedOp 6) := by decide
theorem test_word_too_wide : decode params (.port ⟨0x8000000000000, []⟩) = .error .wordTooWide := by decide
theorem test_payload_too_short :
    decode params (.port ⟨0x3000002000002, [0xAA#8]⟩) = .error .payloadLength := by decide

/-- A table word of a wire row and one of a host row. -/
theorem test_table_words :
    decodeTableWord 8 0x20 = some (.sectorEraseCmd 0#24) ∧ decodeTableWord 8 0x01 = some (.writeEnable 0 0) := by
  decide

/-- A word placed for the next step is the instruction that step runs. -/
theorem test_fetch_words :
    step (State.reset.withFetchWord 8 0x06) = exec .writeEnableCmd (State.reset.withFetchWord 8 0x06) ∧
      step (State.reset.withFetchWord 8 0x04) = exec (.readStatus 0 0) { State.reset.withFetchWord 8 0x04 with host := [] } :=
  ⟨rfl, rfl⟩

/-! ### One step of each instruction -/

/-- V94: `X([06] -> [--])`. -/
theorem test_write_enable_cmd_step :
    (after rest (step (midway .writeEnable 3 0#24 [good false [0xAA#8]]))).trace
      = rest.trace ++ [.xfer [0x06#8] [0xAA#8]] := by decide
/-- R71: the chip sets its latch when the bracket ends. -/
theorem test_write_enable_cmd_latch :
    (after rest (step { midway .writeEnable 5 0#24 [] with chip := { chip with rx := [0x06#8] } })).chip.wel = true := by
  decide
/-- V80: the chip returns `[-- A5]`. -/
theorem test_read_status_cmd_step :
    (after rest (step { midway .readStatus 3 0#24 [good false [0x11#8, 0xA5#8]] with
      chip := { chip with cbusy := true } })).status = 0xA5#8 := by decide
/-- V74: `FE` from a chip that is not busy. -/
theorem test_read_status_cmd_ready :
    (after rest (step (midway .readStatus 3 0#24 [good false [0x11#8, 0xFF#8]]))).status = 0xFE#8 := by decide
/-- V95: `<20 00 10 00>`. -/
theorem test_sector_erase_cmd_step :
    (after rest (step (midway .sectorErase 10 0x001000#24 [good false [0#8, 1#8, 2#8, 3#8]]))).trace
      = rest.trace ++ [.xfer [0x20#8, 0x00#8, 0x10#8, 0x00#8] [0#8, 1#8, 2#8, 3#8]] := by decide
/-- V96: a fault on the call. -/
theorem test_sector_erase_cmd_fault :
    (after rest (step (midway .sectorErase 10 0x001000#24 [⟨true, false, []⟩]))).err = .busFault := by decide
/-- V90, the frame: `X([03 00 01 00] -> ...)`. -/
theorem test_read_cmd_frame :
    (after rest (step { midway .read 3 0x000100#24 [good false [0#8, 1#8, 2#8, 3#8]] with len := 2 })).trace
      = rest.trace ++ [.xfer [0x03#8, 0x00#8, 0x01#8, 0x00#8] [0#8, 1#8, 2#8, 3#8]] := by decide
/-- V90, the data: `X([00 00] -> [05 09])`. -/
theorem test_read_cmd_data :
    (after rest (step { midway .read 4 0x000100#24 [good false []] with
      len := 2, chip := { chip with rx := [0x03#8, 0x00#8, 0x01#8, 0x00#8] } })).rdata = [0x05#8, 0x09#8] := by decide
/-- V101, the frame: `X([02 00 03 00] -> ...)`. -/
theorem test_page_program_cmd_frame :
    (after rest (step (midway .pageProgram 11 0x000300#24 [good false [0#8, 1#8, 2#8, 3#8]]))).trace
      = rest.trace ++ [.xfer [0x02#8, 0x00#8, 0x03#8, 0x00#8] [0#8, 1#8, 2#8, 3#8]] := by decide
/-- V101: a fault on the payload call, with the line low: the exit begins at E0. -/
theorem test_page_program_cmd_fault :
    (after rest (step (midway .pageProgram 12 0x000300#24 [⟨true, false, []⟩]))).seq = .exit 0 := by decide

/-- V91: the latched address is the low 24 bits. -/
theorem test_read_step : (after rest (step { rest with host := [⟨0x0010002000000, []⟩] })).addr = 0x000200#24 := by
  decide
/-- V94: the operation begins. -/
theorem test_write_enable_step :
    (after rest (step { rest with host := [⟨0x1000000000000, []⟩] })).op = .writeEnable := by decide
/-- V95: `REQ` is the only event. -/
theorem test_sector_erase_step :
    (after rest (step { rest with host := [⟨0x2000010000000, []⟩] })).trace
      = rest.trace ++ [.req ⟨.sectorErase, 0x001000, 0, []⟩] := by decide
/-- V98 in small: a payload that is not a Page is not stored. -/
theorem test_page_program_step :
    (after rest (step { rest with host := [⟨0x3000002000001, [0xAA#8]⟩] })).pagebuf.head? = some 0x00#8 := by decide
/-- V98: the length check raises `InvalidLength`, and control is at E3. -/
theorem test_page_program_check :
    (after rest (step { midway .pageProgram 0 0#24 [] with len := 255 })).seq = .exit 3 := by decide
theorem test_read_status_step :
    (after rest (step { rest with host := [⟨0x4000000000000, []⟩] })).phase = .selected := by decide
/-- V103: a request while the block polls changes nothing. -/
theorem test_request_while_polling :
    step { midway .sectorErase 19 0#24 [] with async := [⟨0, .present ⟨0, []⟩⟩] } = .next (midway .sectorErase 19 0#24 []) :=
  rfl
/-- V71: busy at the bound. -/
theorem test_poll_test_timeout :
    (after rest (step { midway .sectorErase 22 0#24 [] with status := 0x01#8, pollcnt := 1 })).err = .timeout := by decide
/-- V72: ready at the bound. -/
theorem test_poll_test_ready_at_bound :
    (after rest (step { midway .sectorErase 22 0#24 [] with status := 0x00#8, pollcnt := 1 })).seq = .main 23 := by decide

/-! ### States that meet the hypotheses of the obligations -/

/-- The state at rest meets the invariant. -/
theorem rest_inv : rest.Inv where
  params := by decide
  control := rfl
  delay := rfl
  err := fun h => absurd h (by decide)
  latch := ⟨List.length_replicate (a := 0x00#8), by decide, fun h => absurd h (by decide), fun h => absurd h (by decide)⟩
  poll := fun h => absurd h (by decide)
  wire := ⟨fun _ => ⟨rfl, rfl⟩, fun h => absurd h (by decide)⟩
  chip := ⟨by decide, trivial⟩

theorem rest_trace : rest.traceInv := ⟨Watch.rest, rfl, ⟨rfl, rfl, rfl, fun h => absurd h (by decide), fun h => absurd h (by decide), fun h => absurd h (by decide), rfl⟩⟩

/-- In a `read_status`, before its call. -/
def reading : State := midway .readStatus 3 0#24 [good false [0x11#8, 0x00#8]]

theorem reading_inv : reading.Inv where
  params := by decide
  control := ⟨rfl, rfl, rfl, rfl⟩
  delay := rfl
  err := fun _ => rfl
  latch := ⟨List.length_replicate (a := 0x00#8), by decide, fun _ h => absurd h (by decide), fun _ h => absurd h (by decide)⟩
  poll := fun _ => ⟨fun h => absurd h (by decide), fun h => absurd h (by decide)⟩
  wire := ⟨fun h => absurd h (by decide), fun _ _ n h => by cases h; rfl⟩
  chip := ⟨by decide, trivial⟩

/-- The state some steps on; the given one where a step stops. -/
def later (k : Nat) (s : State) : State := (s.run k).getD s

/-- A Page that is not all ones. -/
def page : List Byte := 0x05#8 :: 0x09#8 :: List.replicate 254 0x00#8

/-- An idle chip, with the answers of an erase, a program and a read, the chip done at the first status read. -/
def before : State :=
  { rest with
    answers := [good false [0#8], good false [0#8, 0#8, 0#8, 0#8], good true [0#8, 0#8],
      good false [0#8], good false [0#8, 0#8, 0#8, 0#8], good false (List.replicate 256 0#8), good true [0#8, 0#8],
      good false [0#8, 0#8, 0#8, 0#8], good false []] }

def erased : State := later 24 (before.accept ⟨.sectorErase, 256, 0, []⟩)
def programmed : State := later 26 (erased.accept ⟨.pageProgram, 256, 256, page⟩)
def readBack : State := later 9 (programmed.accept ⟨.read, 256, 2, []⟩)

/-- A host operation that is accepted and comes to rest after `k` steps. -/
theorem completes_later {s t : State} {i : Instr} {k : Nat} (h : exec i s = .next t)
    (hr : (t.run k).isSome = true) (hp : (later k t).phase = .idle) : s.completes i (later k t) :=
  ⟨t, h, ⟨k, by
    rw [later]
    cases ht : t.run k with
    | none => simp [ht] at hr
    | some u => rfl⟩, hp⟩

theorem erased_completes : before.completes (.sectorErase 256 0) erased :=
  completes_later rfl (by decide +kernel) (by decide +kernel)

theorem programmed_completes : erased.completes (.pageProgram 256 256 page) programmed :=
  completes_later rfl (by decide +kernel) (by decide +kernel)

theorem readBack_completes : programmed.completes (.read 256 2) readBack :=
  completes_later rfl (by decide +kernel) (by decide +kernel)

/-- V12 in small: the page reads back. -/
theorem readBack_data : readBack.rsp = some ⟨.ok, [0x05#8, 0x09#8], none⟩ := by decide +kernel


/-! Encoding -/

theorem test_meets_DecodeOfEncodeIsTheInstruction :
    WellFormed params (.pageProgram (2 ^ 32 - 1) 1 [0xFF#8]) = true ∧ WellFormed params (.read (2 ^ 32 - 1) (2 ^ 16 - 1)) = true
      ∧ WellFormed params (.readCmd 0xFFFFFF#24) = true := by decide
theorem test_meets_EncodeOfDecodeIsTheRequest :
    decode params (.port ⟨0x4FFFFFFFFFFFF, []⟩) = .ok (.readStatus 0xFFFFFFFF 0xFFFF) := by decide
theorem test_meets_FramingIsAPureRoundTrip :
    0xFFFFFF < 2 ^ 24 ∧ addr3 0xFFFFFF = addr3 0xFFFFFF ∧ (Command.pageProgram 0xFFFFFF).address < 2 ^ 24
      ∧ frame (.pageProgram 0xFFFFFF) = frame (.pageProgram 0xFFFFFF) := by decide
theorem test_meets_OnlyFiveOpcodesAreCommands :
    (0x04#8 : Byte) ∉ [0x02#8, 0x03#8, 0x05#8, 0x06#8, 0x20#8] := by decide

/-! Steps and requests -/

/-- With no outside event, and with one two steps away. -/
theorem test_meets_StepRunsThePresentedRequest :
    let s : State := { rest with host := [⟨0x4000000000000, []⟩] }
    let s2 : State := { s with async := [⟨2, .reset⟩] }
    s.noneDue s ∧ s2.noneDue { s with async := [⟨1, .reset⟩] } ∧ s.phase = .idle ∧
      s.host = [⟨0x4000000000000, []⟩] ∧ decode s.params (.port ⟨0x4000000000000, []⟩) = .ok (.readStatus 0 0) :=
  ⟨.inl ⟨rfl, rfl⟩, .inr ⟨1, .reset, [], rfl, rfl⟩, rfl, rfl, by decide⟩
theorem test_meets_StepRunsTheWireCommandOfTheCall :
    reading.noneDue reading ∧ reading.phase ≠ .idle ∧ microAt reading.op reading.seq = some (.xfer .status) ∧
      decode reading.params (.wire (Call.status.opening reading.addr)) = .ok .readStatusCmd :=
  ⟨.inl ⟨rfl, rfl⟩, by decide, rfl, by decide⟩
theorem test_meets_IdleBlockAcceptsEveryRequest :
    rest.phase = .idle ∧ WellFormed rest.params (.read (2 ^ 32 - 1) (2 ^ 16 - 1)) = true ∧
      WellFormed rest.params (.writeEnable 0 0) = true ∧ WellFormed rest.params (.sectorErase 256 0) = true ∧
      WellFormed rest.params (.pageProgram 256 2 [0x05#8, 0x09#8]) = true ∧ WellFormed rest.params (.readStatus 0 0) = true := by
  decide
theorem test_meets_page_request : WellFormed rest.params (.pageProgram 256 256 page) = true := by decide +kernel
theorem test_meets_RequestsOutOfTurnAreNotAccepted :
    reading.phase ≠ .idle ∧ ({ reading with async := [⟨0, .present ⟨0, []⟩⟩] } : State).phase ≠ .idle ∧
      0x5000000000000 / 2 ^ (rest.params.hostAddrWidth + rest.params.lenWidth) = 5 ∧
      0x7FFFFFFFFFFFF / 2 ^ (rest.params.hostAddrWidth + rest.params.lenWidth) = 7 ∧ rest.async = [] ∧ rest.phase = .idle := by
  decide

theorem test_meets_OutsideEventsActBetweenSteps :
    ({ rest with async := [⟨0, .present ⟨0x4000000000000, []⟩⟩] } : State).async = [⟨0, .present ⟨0x4000000000000, []⟩⟩] ∧
      decode rest.params (.port ⟨0x4000000000000, []⟩) = .ok (.readStatus 0 0) ∧
      ({ rest with async := [⟨0, .chipDone⟩] } : State).async = [⟨0, .chipDone⟩] := by decide

/-! Wire commands: outside and inside the data phase, with and without a fault -/

theorem test_meets_wire_commands :
    (reading.answerAt 0).fault = false ∧
    ((midway .read 3 0#24 [good false []]).answerAt 0).fault = false ∧ (midway .read 3 0#24 []).inDataPhase = false ∧
    ((midway .read 4 0#24 [good false []]).answerAt 0).fault = false ∧ (midway .read 4 0#24 []).inDataPhase = true ∧
    (midway .pageProgram 11 0#24 []).inDataPhase = false ∧ (midway .pageProgram 12 0#24 []).inDataPhase = true := by
  decide
theorem test_meets_BusFaultEndsEveryWireCommand :
    ((midway .read 4 0#24 [⟨true, false, []⟩]).answerAt 0).fault = true ∧
      ((midway .pageProgram 12 0#24 [⟨true, false, []⟩]).answerAt 0).fault = true := by decide

/-! Whole operations -/

theorem before_inv : before.Inv :=
  ⟨rest_inv.params, rest_inv.control, rest_inv.delay, rest_inv.err, rest_inv.latch, rest_inv.poll,
    ⟨fun _ => ⟨rfl, rfl⟩, fun h => absurd h (by decide)⟩, rest_inv.chip⟩

/-- The five whole-operation statements; `len` 0 and more. -/
theorem test_meets_whole_operations :
    before.phase = .idle ∧ before.async = [] ∧ WellFormed before.params (.read 256 0) = true ∧
      WellFormed before.params (.read 256 2) = true ∧ before.params.maxPolls = .upTo 1 ∧ 9 ≤ before.params.lenWidth ∧
      page.length = 256 ∧ before.noFaults (3 + (1 + 1)) :=
  ⟨rfl, rfl, by decide, by decide, rfl, by decide, by decide +kernel, by unfold State.noFaults; decide +kernel⟩
theorem test_meets_InvalidLengthComesBeforeBusActivity :
    rest.phase = .idle ∧ rest.cs = .high ∧ rest.async = [] ∧
      WellFormed rest.params (.pageProgram 0 1 [0xAA#8]) = true ∧ WellFormed rest.params (.pageProgram 0 0 []) = true := by
  decide
theorem test_meets_InvalidLength_step :
    ∃ t, step { midway .pageProgram 0 0#24 [] with len := 257 } = .next t ∧ t.err = .invalidLength := ⟨_, rfl, rfl⟩

/-! Errors, delays, polls -/

/-- With the line low, and with the line high. -/
theorem test_meets_ErrorExitClosesTheBracket :
    reading.async = [] ∧ reading.cs = .low ∧ rest.async = [] ∧ rest.cs = .high ∧ Err.busFault ≠ .ok := by decide
theorem test_meets_UnboundedPollingNeverTimesOut :
    ∃ s t : State, s.params.maxPolls = .inf ∧ s.err ≠ .timeout ∧ step s = .next t ∧ microAt s.op s.seq = some (.pollTest 15) :=
  ⟨{ midway .sectorErase 22 0#24 [] with params := { params with maxPolls := .inf }, status := 0x01#8 }, _, rfl, by decide, rfl, rfl⟩
theorem test_meets_GuardDelayCountsItsCycles :
    let s : State := { midway .read 0 0#24 [] with gcnt := 3 }
    s.async = [] ∧ s.phase ≠ .idle ∧ microAt s.op s.seq = some .delay ∧ 3 ≤ s.gcnt ∧ microAt Op.read (.main 0) = some .delay := by
  decide

/-- At the first poll bracket, with a chip that is busy or not, on the count given. -/
def polling (op : Op) (n count : Nat) (busyChip : Bool) : State :=
  { midway op n 0#24 [good false [0#8, 0#8]] with pollcnt := count, chip := { chip with cbusy := busyChip } }

theorem test_meets_PollIterationDecides :
    ∀ s ∈ [polling .sectorErase 15 0 false, polling .sectorErase 15 1 true, polling .pageProgram 17 0 true],
      s.async = [] ∧ s.phase ≠ .idle ∧ s.err = .ok ∧ s.gcnt = s.params.guardCycles ∧
        (s.op = .sectorErase ∧ s.seq = .main 15 ∨ s.op = .pageProgram ∧ s.seq = .main 17) ∧ s.noFaults 1 := by
  unfold State.noFaults
  decide
/-- Each outcome of the iteration is met: ready, out of polls, round again. -/
theorem test_poll_outcomes :
    (later 8 (polling .sectorErase 15 0 false)).seq = .main 23 ∧ (later 8 (polling .sectorErase 15 1 true)).err = .timeout ∧
      (later 8 (polling .pageProgram 17 0 true)).seq = .main 17 := by decide +kernel

/-! The chip -/

def armedChip : Chip := { chip with wel := true }
def busyChip : Chip := { chip with cbusy := true, wel := true, work := .erase 256 }

theorem test_meets_chip_statements :
    chip.conforms = true ∧ chip.cbusy = false ∧ busyChip.conforms = true ∧ busyChip.cbusy = true ∧
    armedChip.conforms = true ∧ armedChip.wel = true ∧ armedChip.cbusy = false ∧
    768 < 2 ^ 24 ∧ 768 % params.sectorSize = 0 ∧ 768 + params.sectorSize ≤ params.capacity ∧
    768 % 256 = 0 ∧ 768 + 256 ≤ params.capacity ∧
    1023 < 2 ^ 24 ∧ 1023 < params.capacity ∧ 1023 + [0x00#8].length ≤ params.capacity ∧
    chip.lose.conforms = false := by decide
theorem test_meets_chip_page : page.length = 256 := by decide +kernel

/-- A fault on a call of an erase with the chip not busy; on a status read while the chip erases that
sector; and outside a destructive operation. -/
theorem test_meets_BusFaultLeavesOnlyItsUnitInDoubt :
    let frame := midway .sectorErase 10 256#24 [⟨true, false, []⟩]
    let poll : State := { midway .sectorErase 18 256#24 [⟨true, false, []⟩] with chip := busyChip }
    let plain := midway .readStatus 3 256#24 [⟨true, false, []⟩]
    (frame.answerAt 0).fault = true ∧ frame.cs = .low ∧ frame.unit = some (256, 256) ∧ 256 % 256 = 0 ∧
      256 + 256 ≤ frame.params.capacity ∧ frame.chipAtCall.conforms = true ∧ frame.chipAtCall.cbusy = false ∧
      (poll.answerAt 0).fault = true ∧ poll.cs = .low ∧ poll.unit = some (256, 256) ∧
      poll.chipAtCall.conforms = true ∧ poll.chipAtCall.rx = [] ∧
      poll.chipAtCall.work.range poll.params = some (256, 256) ∧
      (plain.answerAt 0).fault = true ∧ plain.cs = .low ∧ plain.unit = none := by decide

/-- At the poll test of a program, out of polls, with the chip not busy and with the chip at that page. -/
theorem test_meets_TimeoutLeavesItsUnitInDoubt :
    let out : State := { midway .pageProgram 24 512#24 [] with status := 0x01#8, pollcnt := 1 }
    let working : State := { out with chip := { chip with cbusy := true, work := .doubtful 512 256 } }
    out.async = [] ∧ out.phase ≠ .idle ∧ microAt out.op out.seq = some (.pollTest 17) ∧ busy out.status = true ∧
      out.params.maxPolls.reached (out.pollcnt + 1) = true ∧ out.unit = some (512, 256) ∧ 512 % 256 = 0 ∧
      512 + 256 ≤ out.params.capacity ∧ out.chip.conforms = true ∧ out.chip.cbusy = false ∧
      working.chip.conforms = true ∧ working.chip.cbusy = true ∧
      working.chip.work.range working.params = some (512, 256) := by decide

/-! The block and the chip together -/

theorem test_meets_ProgrammedPageReadsBack :
    before.Inv ∧ before.phase = .idle ∧ before.async = [] ∧ before.host = [] ∧ before.chip.conforms = true ∧
      before.chip.cbusy = false ∧ 256 % before.params.sectorSize = 0 ∧ 256 + 256 ≤ 256 + before.params.sectorSize ∧
      256 + before.params.sectorSize ≤ before.params.capacity ∧ page.length = 256 ∧
      before.completes (.sectorErase 256 0) erased ∧ erased.err = .ok ∧
      erased.completes (.pageProgram 256 256 page) programmed ∧ programmed.err = .ok ∧
      programmed.completes (.read 256 2) readBack ∧ readBack.err = .ok :=
  ⟨before_inv, rfl, rfl, rfl, rfl, rfl, by decide, by decide, by decide, by decide +kernel, erased_completes,
    by decide +kernel, programmed_completes, by decide +kernel, readBack_completes, by decide +kernel⟩

theorem test_meets_ErasedSectorReadsAllOnes :
    before.Inv ∧ 256 % before.params.sectorSize = 0 ∧ 256 ≤ 511 ∧ 511 < 256 + before.params.sectorSize ∧
      511 + 1 ≤ 256 + before.params.sectorSize ∧ 256 + before.params.sectorSize ≤ before.params.capacity ∧
      1 < 2 ^ before.params.lenWidth ∧ before.completes (.sectorErase 256 0) erased ∧ erased.err = .ok ∧
      ∃ w, erased.completes (.read 511 1) w ∧ w.err = .ok :=
  ⟨before_inv, by decide, by decide, by decide, by decide, by decide, by decide, erased_completes, by decide +kernel,
    later 9 (erased.accept ⟨.read, 511, 1, []⟩), completes_later rfl (by decide +kernel) (by decide +kernel), by decide +kernel⟩

/-! The whole machine -/

theorem reading_trace : ({ reading with trace := rest.trace ++ [.req ⟨.readStatus, 0, 0, []⟩] ++ selectEvents 0 } : State).traceInv :=
  ⟨⟨true, .low, [], false, false, false, false⟩, rfl,
    ⟨rfl, rfl, rfl, fun _ _ => rfl, fun _ h => absurd h (by decide), fun h => absurd h (by decide), rfl⟩⟩

/-- StepKeepsTheInvariant, StepKeepsTheTraceRules, EveryStepAnswersANextState: at rest and in an operation. -/
theorem test_meets_StepKeepsTheInvariant :
    (rest.Inv ∧ ∃ t, step rest = .next t) ∧ (reading.Inv ∧ ∃ t, step reading = .next t) :=
  ⟨⟨rest_inv, _, rfl⟩, reading_inv, _, rfl⟩
theorem test_meets_StepKeepsTheTraceRules :
    let s : State := { reading with trace := rest.trace ++ [.req ⟨.readStatus, 0, 0, []⟩] ++ selectEvents 0 }
    s.Inv ∧ s.traceInv ∧ ∃ t, step s = .next t :=
  ⟨⟨reading_inv.params, reading_inv.control, reading_inv.delay, reading_inv.err, reading_inv.latch, reading_inv.poll,
    ⟨fun h => absurd h (by decide), fun _ _ n h => by cases h; rfl⟩, reading_inv.chip⟩, reading_trace, _, rfl⟩
theorem test_meets_EveryOperationGetsItsResponse :
    reading.Inv ∧ reading.async = [] ∧ reading.phase ≠ .idle ∧ reading.params.maxPolls = .upTo 1 :=
  ⟨reading_inv, rfl, by decide, rfl⟩
/-- ParametersStayAndTheTraceGrows, LatchesAreConstantWhileRunning, StatusAndSelectHaveOneWriterEach,
PlainOperationsNeverPoll. -/
theorem test_meets_PlainOperationsNeverPoll :
    let s := midway .writeEnable 4 0#24 []
    s.phase ≠ .idle ∧ s.op ∈ [Op.read, Op.writeEnable, Op.readStatus] ∧ (∀ rest, s.async ≠ ⟨0, .reset⟩ :: rest) ∧
      s.err ≠ .timeout ∧ microAt s.op s.seq ≠ some (.xfer .status) ∧ microAt s.op s.seq ≠ some .csLow ∧
      microAt s.op s.seq ≠ some .csHigh ∧ ∃ t, step s = .next t :=
  ⟨by decide, by decide, fun _ h => (by cases h), by decide, by decide, by decide, by decide, _, rfl⟩

/-- A reset is due. -/
def resetting (s : State) : State := { s with async := [⟨0, .reset⟩] }

/-- Each clause on the chip: the line low; the chip busy; a destructive command pending; nothing of the
kind, in an operation, at the length check and at rest; a destructive operation before its command, its
address aligned, misaligned, the last within capacity and the first past it. -/
theorem test_meets_ResetInputPutsTheBlockAtRest :
    let pending := resetting (midway .sectorErase 15 256#24 [])
    (resetting reading).async = [⟨0, .reset⟩] ∧ (resetting reading).cs = .low ∧
      (resetting { rest with chip := busyChip }).chip.cbusy = true ∧
      pending.phase ≠ .idle ∧ commandPending pending.op pending.seq = true ∧
      (resetting rest).cs = .high ∧ (resetting rest).chip.cbusy = false ∧ (resetting rest).phase = .idle ∧
      (resetting (midway .read 1 0#24 [])).phase ≠ .idle ∧ (resetting (midway .read 1 0#24 [])).cs = .high ∧
      commandPending .read (.main 1) = false ∧ commandDue .read (.main 1) = false ∧
      commandPending .pageProgram (.main 0) = false ∧ commandDue .pageProgram (.main 0) = false ∧
      ∀ a ∈ [256, 257, 1023, 1024], ∀ due ∈ [midway .pageProgram 9 (.ofNat 24 a) [], midway .sectorErase 0 (.ofNat 24 a) []],
        due.cs = .high ∧ due.chip.cbusy = false ∧ due.phase ≠ .idle ∧ commandDue due.op due.seq = true ∧
          due.unit = some (a, 256) := by
  decide

/-- R45: a reset before the erase of a misaligned address is sent leaves the bytes of other sectors, WEL and
the contract. -/
theorem test_reset_before_misaligned_erase :
    let t := after rest (step (resetting { midway .sectorErase 0 513#24 [] with chip := armedChip }))
    t.chip.wel = true ∧ t.chip.conforms = true ∧ t.chip.byteAt 256 = 0x05#8 ∧ t.chip.byteAt 257 = 0x09#8 := by
  decide

end Sys2Proof.Tests
end

section
/-! PROOFS. A step, said once: what each micro-operation does to the state whatever the position, and the
five things one step of the machine can be. Later proofs cite `stepCase_of_step` and do not unfold `step`. -/

namespace Sys2Proof.Machine

open Config

/-! ### Requests -/

/-- The operation codes that decode, and what each decodes to (R106). -/
theorem decodeOp_ok {code addr len : Nat} {payload : List Byte} {i : Instr}
    (h : decodeOp code addr len payload = .ok i) :
    (code = 0 ∧ i = .read addr len) ∨ (code = 1 ∧ i = .writeEnable addr len) ∨
      (code = 2 ∧ i = .sectorErase addr len) ∨
      (code = 3 ∧ payload.length = len ∧ i = .pageProgram addr len payload) ∨
      (code = 4 ∧ i = .readStatus addr len) := by
  by_cases hlen : payload.length = len
  all_goals
    unfold decodeOp at h
    split at h <;> simp_all

/-- An instruction that a request word decodes to runs by accepting a request. -/
theorem exec_of_decode_port {p : Params} {w : PortWord} {i : Instr} (h : decode p (.port w) = .ok i) :
    ∃ r : Request, ∀ s : State, exec i s = .next (s.accept r) := by
  rcases decodeOp_ok h with ⟨-, rfl⟩ | ⟨-, rfl⟩ | ⟨-, rfl⟩ | ⟨-, -, rfl⟩ | ⟨-, rfl⟩
  all_goals exact ⟨_, fun _ => rfl⟩

/-! ### Micro-operations -/

/-- What a transfer call does with its received bytes before control moves on (R153, R191). -/
def Call.keep (rx : List Byte) (s : State) : Call → State
  | .status => { s with status := rx.getD 1 0x00#8 }
  | .readData => { s with rdata := rx }
  | .writeEnable => s
  | .readFrame => s
  | .eraseFrame => s
  | .programFrame => s
  | .programData => s

section
variable (rx : List Byte) (s : State) (c : Call)
@[simp] theorem Call.keep_params : (c.keep rx s).params = s.params := by cases c <;> rfl
@[simp] theorem Call.keep_op : (c.keep rx s).op = s.op := by cases c <;> rfl
@[simp] theorem Call.keep_addr : (c.keep rx s).addr = s.addr := by cases c <;> rfl
@[simp] theorem Call.keep_len : (c.keep rx s).len = s.len := by cases c <;> rfl
@[simp] theorem Call.keep_pagebuf : (c.keep rx s).pagebuf = s.pagebuf := by cases c <;> rfl
@[simp] theorem Call.keep_seq : (c.keep rx s).seq = s.seq := by cases c <;> rfl
@[simp] theorem Call.keep_cs : (c.keep rx s).cs = s.cs := by cases c <;> rfl
@[simp] theorem Call.keep_err : (c.keep rx s).err = s.err := by cases c <;> rfl
@[simp] theorem Call.keep_pollcnt : (c.keep rx s).pollcnt = s.pollcnt := by cases c <;> rfl
@[simp] theorem Call.keep_gcnt : (c.keep rx s).gcnt = s.gcnt := by cases c <;> rfl
@[simp] theorem Call.keep_rsp : (c.keep rx s).rsp = s.rsp := by cases c <;> rfl
@[simp] theorem Call.keep_chip : (c.keep rx s).chip = s.chip := by cases c <;> rfl
@[simp] theorem Call.keep_async : (c.keep rx s).async = s.async := by cases c <;> rfl
@[simp] theorem Call.keep_trace : (c.keep rx s).trace = s.trace := by cases c <;> rfl

/-- Only a status exchange writes STATUS (R29). -/
theorem Call.keep_status (h : c ≠ .status) : (c.keep rx s).status = s.status := by
  cases c with
  | status => exact absurd rfl h
  | _ => rfl
end

/-- Where control goes after a transfer call: on, but past the data call of a read of length 0 (R191). -/
def Call.target (s : State) (c : Call) : Seq :=
  if c = .readFrame ∧ s.len = 0 then s.seq.next.next else s.seq.next

/-- A micro-operation as a function on states. -/
def MicroOp.run (s : State) : MicroOp → State
  | .delay => s.delayCycle
  | .csLow => (s.setSelect .low).advance
  | .csHigh => (s.setSelect .high).advance
  | .xfer c => s.xfer (c.sends s) (fun rx t => (c.keep rx t).goTo (c.target s))
  | .lenCheck => s.lenCheck
  | .clearPolls => s.clearPolls
  | .pollTest back => s.pollTest back
  | .respond => s.respond

/-- A transfer call is carried out, or faulted. -/
theorem MicroOp.run_xfer_cases (c : Call) (s : State) :
    (MicroOp.xfer c).run s =
        (c.keep (s.received (c.sends s)) (s.exchanged (c.sends s))).goTo (c.target s) ∨
      (MicroOp.xfer c).run s = (s.faulted (c.sends s)).raise .busFault :=
  State.xfer_cases s (c.sends s) (fun rx t => (c.keep rx t).goTo (c.target s))

/-- At a transfer call its wire command sends the call's bytes, keeps what it keeps and goes on. -/
theorem exec_call {s : State} {c : Call} (h : microAt s.op s.seq = some (.xfer c)) :
    exec (c.instr s.addr) s = .next ((MicroOp.xfer c).run s) := by
  cases c with
  | readFrame =>
    have hd : s.inDataPhase = false := by simp [State.inDataPhase, h]
    simp only [Call.instr, exec, execReadCmd, hd, Bool.false_eq_true, if_false, MicroOp.run, Call.sends,
      State.xfer, Call.target, Call.keep, State.exchanged_len, State.exchanged_seq, true_and]
    by_cases hl : s.len = 0
    · simp only [hl, if_true]
    · simp only [hl, if_false]
      rfl
  | readData =>
    have hd : s.inDataPhase = true := by simp [State.inDataPhase, h]
    simp only [Call.instr, exec, execReadCmd, hd, if_true]
    rfl
  | programFrame =>
    have hd : s.inDataPhase = false := by simp [State.inDataPhase, h]
    simp only [Call.instr, exec, execPageProgramCmd, hd]
    rfl
  | programData =>
    have hd : s.inDataPhase = true := by simp [State.inDataPhase, h]
    simp only [Call.instr, exec, execPageProgramCmd, hd, if_true]
    rfl
  | writeEnable => rfl
  | status => rfl
  | eraseFrame => rfl

/-- Inside the micro-program the sequencer runs the micro-operation at SEQ (R26). -/
theorem microStep_run {s : State} {m : MicroOp} (h : microAt s.op s.seq = some m) :
    microStep s = .next (m.run s) := by
  cases m with
  | delay => exact microStep_delay h
  | csLow => exact microStep_csLow h
  | csHigh => exact microStep_csHigh h
  | xfer c => rw [microStep_xfer h, exec_call h]
  | lenCheck => exact microStep_lenCheck h
  | clearPolls => exact microStep_clearPolls h
  | pollTest back => exact microStep_pollTest h
  | respond => exact microStep_respond h

/-- A micro-operation answers only inside the micro-program. -/
theorem microStep_next {s t : State} (h : microStep s = .next t) :
    ∃ m, microAt s.op s.seq = some m ∧ t = m.run s := by
  cases hm : microAt s.op s.seq with
  | none => simp [microStep, hm] at h
  | some m =>
    rw [microStep_run hm] at h
    exact ⟨m, rfl, (Host.Outcome.next.inj h).symm⟩

/-! ### Steps -/

/-- The two lists of the outside as a step leaves them (log 8). -/
def State.withInputs (host : List PortWord) (async : List Timed) (s : State) : State :=
  { s with host := host, async := async }

/-- What a step from `s` can be: the lists of the outside move on and nothing else happens, or a request is
presented, a micro-operation runs, the chip completes, or the reset input that is due acts. -/
inductive StepCase (s : State) : State → Prop
  | waits (host : List PortWord) (async : List Timed) : StepCase s (s.withInputs host async)
  | accepts (host : List PortWord) (async : List Timed) (r : Request) :
      StepCase s ((s.withInputs host async).accept r)
  | runs (async : List Timed) (m : MicroOp) (hp : s.phase ≠ .idle) (hm : microAt s.op s.seq = some m) :
      StepCase s (m.run (s.withInputs s.host async))
  | completes (async : List Timed) :
      StepCase s { s.withInputs s.host async with chip := s.chip.complete s.params }
  | resets (rest : List Timed) (hd : s.async = ⟨0, .reset⟩ :: rest) :
      StepCase s (s.withInputs s.host rest).resetInput

theorem stepCase_of_blockStep {s t : State} (async : List Timed)
    (h : blockStep (s.withInputs s.host async) = .next t) : StepCase s t := by
  by_cases hp : s.phase = .idle
  · rw [blockStep_idle (by exact hp)] at h
    unfold idleStep at h
    split at h
    · cases h
      exact .waits s.host async
    · next w rest _ =>
      split at h
      · next i hi =>
        obtain ⟨r, hr⟩ := exec_of_decode_port hi
        rw [hr] at h
        cases h
        exact .accepts rest async r
      · cases h
        exact .waits rest async
  · rw [blockStep_running (by exact hp)] at h
    obtain ⟨m, hm, rfl⟩ := microStep_next h
    exact .runs async m hp hm

theorem stepCase_of_outsideStep {s t : State} {o : Outside} {rest : List Timed}
    (hd : s.async = ⟨0, o⟩ :: rest) (h : outsideStep o (s.withInputs s.host rest) = .next t) :
    StepCase s t := by
  cases o with
  | reset =>
    cases h
    exact .resets rest hd
  | chipDone =>
    cases h
    exact .completes rest
  | present w =>
    simp only [outsideStep] at h
    split at h
    · next i hi =>
      obtain ⟨r, hr⟩ := exec_of_decode_port hi
      rw [hr] at h
      cases h
      exact .accepts s.host rest r
    · cases h
      exact .waits s.host rest

/-- Everything a step can be. -/
theorem stepCase_of_step {s t : State} (h : step s = .next t) : StepCase s t := by
  unfold step stepMachine at h
  split at h
  · next ha => exact stepCase_of_blockStep s.async h
  · next o rest ha => exact stepCase_of_outsideStep ha h
  · next n o rest ha => exact stepCase_of_blockStep _ h

end Sys2Proof.Machine
end

section
/-! PROOFS. The tables of the micro-programs (R195) as facts about positions, each decided over the finitely
many positions of an operation. -/

namespace Sys2Proof.Machine

open Config

/-- The positions of an operation: its micro-program, then the error exit. -/
def positions (op : Op) : List Seq :=
  (List.range (program op).length).map .main ++ (List.range exitProgram.length).map .exit

theorem mem_positions {op : Op} {q : Seq} {m : MicroOp} (h : microAt op q = some m) : q ∈ positions op := by
  cases q with
  | main n =>
    obtain ⟨hn, -⟩ := List.getElem?_eq_some_iff.1 h
    simpa [positions] using hn
  | exit n =>
    obtain ⟨hn, -⟩ := List.getElem?_eq_some_iff.1 h
    simpa [positions] using hn

/-- What holds of every row of an operation's table holds of the micro-operation at any position. -/
theorem of_table {op : Op} {q : Seq} {m : MicroOp} {P : Seq → MicroOp → Prop}
    (table : ∀ q ∈ positions op, ∀ m ∈ microAt op q, P q m) (h : microAt op q = some m) : P q m :=
  table q (mem_positions h) m h

/-- Only the response has no position after it. -/
theorem microAt_next {op : Op} {q : Seq} {m : MicroOp} (h : microAt op q = some m) (hm : m ≠ .respond) :
    (microAt op q.next).isSome :=
  of_table (P := fun q m => m ≠ .respond → (microAt op q.next).isSome) (by cases op <;> decide) h hm

/-- Every operation begins at position 0, with no polls yet. -/
theorem microAt_zero (op : Op) : (microAt op (.main 0)).isSome := by cases op <;> rfl

theorem polls_zero (op : Op) : inPolls op (.main 0) = false ∧ pollsDone op (.main 0) = false := by
  cases op <;> decide

/-- The line is low at a transfer call. -/
theorem levelAt_xfer {op : Op} {q : Seq} {c : Call} (h : microAt op q = some (.xfer c)) : levelAt op q = .low :=
  of_table (P := fun q m => m = .xfer c → levelAt op q = .low) (by cases op <;> cases c <;> decide) h rfl

/-- The line is high at the response. -/
theorem levelAt_respond {op : Op} {q : Seq} (h : microAt op q = some .respond) : levelAt op q = .high :=
  of_table (P := fun q m => m = .respond → levelAt op q = .high) (by cases op <;> decide) h rfl

/-- The micro-operations of the error exit (R226). -/
theorem microAt_exit {op : Op} {n : Nat} {m : MicroOp} (h : microAt op (.exit n) = some m) :
    m = .delay ∨ m = .csHigh ∨ m = .respond := by
  have hm : m ∈ exitProgram := List.mem_of_getElem? h
  simp only [exitProgram, List.mem_cons, List.not_mem_nil, or_false] at hm
  tauto

/-- The two poll tests and the poll brackets they go back to. -/
theorem microAt_pollTest {op : Op} {q : Seq} {back : Nat} (h : microAt op q = some (.pollTest back)) :
    (op = .sectorErase ∧ q = .main 22 ∧ back = 15) ∨ (op = .pageProgram ∧ q = .main 24 ∧ back = 17) := by
  cases q with
  | exit n => simpa using microAt_exit h
  | main n =>
    have hb : .pollTest back ∈ program op := List.mem_of_getElem? h
    cases op
    case sectorErase =>
      obtain rfl : back = 15 := by
        simpa [program, sectorEraseProgram, waitProgram, bracket] using hb
      exact .inl ⟨rfl, of_table (P := fun q m => m = .pollTest 15 → q = .main 22) (by decide) h rfl, rfl⟩
    case pageProgram =>
      obtain rfl : back = 17 := by
        simpa [program, pageProgramProgram, waitProgram, bracket] using hb
      exact .inr ⟨rfl, of_table (P := fun q m => m = .pollTest 17 → q = .main 24) (by decide) h rfl, rfl⟩
    all_goals simp [program, readProgram, writeEnableProgram, readStatusProgram, bracket] at hb

/-- A micro-operation that the error exit does not have stands in the micro-program. -/
theorem main_of_microAt {op : Op} {q : Seq} {m : MicroOp} (h : microAt op q = some m) (hd : m ≠ .delay)
    (hc : m ≠ .csHigh) (hr : m ≠ .respond) : ∃ n, q = .main n := by
  cases q with
  | main n => exact ⟨n, rfl⟩
  | exit n => rcases microAt_exit h with hx | hx | hx <;> contradiction

/-- The line is high at a poll test. -/
theorem levelAt_pollTest {op : Op} {q : Seq} {back : Nat} (h : microAt op q = some (.pollTest back)) :
    levelAt op q = .high := by
  rcases microAt_pollTest h with ⟨rfl, rfl, -⟩ | ⟨rfl, rfl, -⟩ <;> rfl

/-- The first micro-operation of a program is the length check (R223), and it stands nowhere else. -/
theorem microAt_pageProgram_zero {m : MicroOp} (h : microAt .pageProgram (.main 0) = some m) : m = .lenCheck :=
  (Option.some.inj h).symm

theorem microAt_lenCheck {op : Op} {q : Seq} (h : microAt op q = some .lenCheck) :
    op = .pageProgram ∧ q = .main 0 :=
  of_table (P := fun q m => m = .lenCheck → op = .pageProgram ∧ q = .main 0) (by cases op <;> decide) h rfl

theorem microAt_readFrame {op : Op} {q : Seq} (h : microAt op q = some (.xfer .readFrame)) :
    op = .read ∧ q = .main 3 :=
  of_table (P := fun q m => m = .xfer .readFrame → op = .read ∧ q = .main 3) (by cases op <;> decide) h rfl

/-- A read comes to its data call only from its frame (R191). -/
theorem readFrame_of_next {q : Seq} {m : MicroOp} (h : microAt .read q = some m) (hq : q.next = .main 4) :
    m = .xfer .readFrame := by
  cases q with
  | exit n => cases hq
  | main n =>
    cases hq
    exact (Option.some.inj h).symm

/-- The polls begin where POLLCNT is cleared, and end with a passing test (R171). -/
theorem inPolls_next {op : Op} {q : Seq} {m : MicroOp} (h : microAt op q = some m)
    (hn : inPolls op q.next = true) : m = .clearPolls ∨ inPolls op q = true ∧ ∀ back, m ≠ .pollTest back := by
  by_cases hm : ∃ back, m = .pollTest back
  · obtain ⟨back, rfl⟩ := hm
    rcases microAt_pollTest h with ⟨rfl, rfl, -⟩ | ⟨rfl, rfl, -⟩ <;> exact absurd hn (by decide)
  · have := of_table (P := fun q m => inPolls op q.next = true → m = .clearPolls ∨ inPolls op q = true)
      (by cases op <;> decide) h hn
    exact this.imp_right fun hq => ⟨hq, fun back hb => hm ⟨back, hb⟩⟩

theorem pollsDone_next {op : Op} {q : Seq} {m : MicroOp} (h : microAt op q = some m) (hm : m ≠ .respond)
    (hn : pollsDone op q.next = true) : ∃ back, m = .pollTest back := by
  have := of_table (P := fun q m => m ≠ .respond → pollsDone op q.next = true →
    m = .pollTest 15 ∨ m = .pollTest 17) (by cases op <;> decide) h hm hn
  exact this.elim (fun h => ⟨_, h⟩) (fun h => ⟨_, h⟩)

/-! ### The line and the bytes sent, from one position to the next -/

theorem levelAfter_append (l : Level) (xs ys : List MicroOp) :
    levelAfter l (xs ++ ys) = levelAfter (levelAfter l xs) ys := by
  induction xs generalizing l with
  | nil => rfl
  | cons m xs ih => cases m <;> exact ih _

theorem sentAfter_append (s : State) (sent : List Byte) (xs ys : List MicroOp) :
    sentAfter s sent (xs ++ ys) = sentAfter s (sentAfter s sent xs) ys := by
  induction xs generalizing sent with
  | nil => rfl
  | cons m xs ih => cases m <;> exact ih _

/-- The bytes sent depend on the operands and the parameters only. -/
theorem sentAfter_congr {s t : State} (h : s.sameLatches t) (hp : t.params = s.params) (sent : List Byte)
    (xs : List MicroOp) : sentAfter t sent xs = sentAfter s sent xs := by
  obtain ⟨-, haddr, hlen, hpage⟩ := h
  have hc : ∀ c : Call, c.sends t = c.sends s := by
    intro c
    cases c <;> simp [Call.sends, State.dummies, haddr, hlen, hpage, hp]
  induction xs generalizing sent with
  | nil => rfl
  | cons m xs ih =>
    cases m with
    | xfer c => simp only [sentAfter, hc, ih]
    | _ => exact ih _

theorem take_next {xs : List MicroOp} {n : Nat} {m : MicroOp} (h : xs[n]? = some m) :
    xs.take (n + 1) = xs.take n ++ [m] := by
  rw [List.take_add_one, h]
  rfl

/-- The level at the next position is that after the micro-operation. -/
theorem levelAt_next {op : Op} {q : Seq} {m : MicroOp} (h : microAt op q = some m) :
    levelAt op q.next = levelAfter (levelAt op q) [m] := by
  cases q with
  | main n => rw [Seq.next, levelAt, levelAt, take_next h, levelAfter_append]
  | exit n => rw [Seq.next, levelAt, levelAt, take_next h, levelAfter_append]

/-- The bytes sent in the open bracket when control is at a position of the micro-program. -/
def State.sentAt (s : State) (n : Nat) : List Byte := sentAfter s [] ((program s.op).take n)

theorem State.sentAt_next {s : State} {n : Nat} {m : MicroOp} (h : microAt s.op (.main n) = some m) :
    s.sentAt (n + 1) = sentAfter s (s.sentAt n) [m] := by
  rw [State.sentAt, take_next h, sentAfter_append, State.sentAt]

end Sys2Proof.Machine
end

section
/-! PROOFS. The invariant over one micro-operation: `Fits q` is what the invariant asks of a state whose
control is about to go to `q`; each micro-operation leads from `Fits` at its position to `Fits` at the next. -/

namespace Sys2Proof.Machine

open Config

/-- The operands, parameters and response of the operation in progress are as they were. -/
def State.sameOperation (s t : State) : Prop :=
  t.params = s.params ∧ s.sameLatches t ∧ t.rsp = s.rsp

/-- What the invariant asks of a state when control goes to `q`, but for a read's second call. -/
structure State.Fits (s : State) (q : Seq) : Prop where
  params : s.params.wf
  onProgram : (microAt s.op q).isSome
  level : s.cs = levelAt s.op q
  silent : s.rsp = none
  still : s.gcnt = 0
  err : errFits s.err q
  page : s.pagebuf.length = pageSize
  width : s.len < 2 ^ s.params.lenWidth
  checked : s.op = .pageProgram → ∀ n, q = .main (n + 1) → s.len = pageSize
  bound : inPolls s.op q = true → s.params.maxPolls.reached s.pollcnt = false
  ready : pollsDone s.op q = true → 1 ≤ s.pollcnt ∧ busy s.status = false
  quiet : s.cs = .high → s.chip.rx = [] ∧ s.chip.cut = false
  sent : s.cs = .low → ∀ n, q = .main n → s.chip.rx = s.sentAt n
  chip : s.chip.good s.params

/-- Control goes to `q`: PHASE and GCNT are those of the position, and the invariant holds there. -/
theorem State.Fits.goTo_inv {s : State} {q : Seq} (h : s.Fits q)
    (hread : s.op = .read → q = .main 4 → s.len ≠ 0) : (s.goTo q).Inv where
  params := h.params
  control := by
    rw [State.controlInv, if_neg (by simp)]
    exact ⟨h.onProgram, rfl, h.level, h.silent⟩
  delay := by
    simp only [State.delayInv, State.goTo_op, State.goTo_seq, State.goTo_gcnt, State.goTo_params, h.still]
    split_ifs <;> simp_all
  err := fun _ => h.err
  latch := ⟨h.page, h.width, fun _ => h.checked, fun _ => hread⟩
  poll := fun _ => ⟨h.bound, h.ready⟩
  wire := ⟨h.quiet, fun _ hc n hq => by
    rw [sentAfter_congr (s := s) (t := s.goTo q) ⟨rfl, rfl, rfl, rfl⟩ rfl]
    exact h.sent hc n hq⟩
  chip := h.chip

/-- An operation in progress fits its position while GCNT is 0. -/
theorem State.Inv.fits {s : State} (h : s.Inv) (hp : s.phase ≠ .idle) (hg : s.gcnt = 0) : s.Fits s.seq := by
  have hi : s.idle = false := (State.idle_eq_false s).2 hp
  have hc := h.control
  rw [State.controlInv, if_neg (by simpa using hp)] at hc
  obtain ⟨hon, -, hlevel, hrsp⟩ := hc
  obtain ⟨hpage, hwidth, hchecked, -⟩ := h.latch
  obtain ⟨hbound, hready⟩ := h.poll hi
  obtain ⟨hquiet, hsent⟩ := h.wire
  exact ⟨h.params, hon, hlevel, hrsp, hg, h.err hi, hpage, hwidth, hchecked hi, hbound, hready, hquiet,
    hsent hi, h.chip⟩

/-- GCNT is 0 wherever no guard delay is due. -/
theorem State.Inv.gcnt_zero {s : State} (h : s.Inv) (hm : s.phase = .idle ∨ microAt s.op s.seq ≠ some .delay) :
    s.gcnt = 0 := by
  have hd := h.delay
  rwa [State.delayInv, if_neg] at hd
  rintro ⟨hi, hs⟩
  exact hm.elim ((State.idle_eq_false s).1 hi) (· hs)

/-! ### What a micro-operation does before control moves on -/

/-- The part of micro-operation `m` that comes before control moves on, as far as the invariant can see it. -/
structure MicroOp.Effect (m : MicroOp) (s t : State) : Prop where
  same : s.sameOperation t := by exact ⟨rfl, ⟨rfl, rfl, rfl, rfl⟩, rfl⟩
  gcnt : t.gcnt = s.gcnt := by rfl
  err : t.err = s.err := by rfl
  level : t.cs = levelAfter s.cs [m] := by rfl
  checked : m = .lenCheck → s.len = pageSize := by simp
  cleared : m = .clearPolls → t.pollcnt = 0 := by simp
  counted : m ≠ .clearPolls → (∀ back, m ≠ .pollTest back) → t.pollcnt = s.pollcnt := by simp
  passed : (∃ back, m = .pollTest back) → 1 ≤ t.pollcnt ∧ busy t.status = false := by simp
  quiet : t.cs = .high → t.chip.rx = [] ∧ t.chip.cut = false
  sent : t.cs = .low → t.chip.rx = sentAfter s s.chip.rx [m]
  chip : t.chip.good t.params

theorem errFits_next {e : Err} {q : Seq} (h : errFits e q = true) : errFits e q.next = true := by
  cases q with
  | main n => exact h
  | exit n =>
    simp only [errFits, Seq.next, Bool.and_eq_true, Bool.or_eq_true, decide_eq_true_eq] at h ⊢
    exact ⟨h.1, h.2.imp_left (by omega)⟩

theorem levelAfter_low {m : MicroOp} (h : levelAfter .high [m] = .low) : m = .csLow := by
  cases m <;> simp_all [levelAfter]

/-- The bound is positive (R172). -/
theorem pollBound_reached_zero (b : PollBound) : b.reached 0 = false := by
  cases b <;> simp [PollBound.reached]

section
variable {s t : State} {q : Seq} {m : MicroOp} (h : s.Fits q) (hm : microAt s.op q = some m) (he : m.Effect s t)
include h hm he

/-- Past the length check of a program `LEN` is a Page (R223). -/
theorem State.Fits.checked_next (hop : s.op = .pageProgram) {n : Nat} (hn : q.next = .main (n + 1)) :
    s.len = pageSize := by
  cases q with
  | exit k => cases hn
  | main k =>
    cases k with
    | zero =>
      rw [hop] at hm
      exact he.checked (microAt_pageProgram_zero hm)
    | succ k => exact h.checked hop k rfl

/-- In the polls the bound stays unreached: they begin at 0, and only the poll test counts (R171). -/
theorem State.Fits.bound_next (hq : inPolls s.op q.next = true) : s.params.maxPolls.reached t.pollcnt = false := by
  by_cases hc : m = .clearPolls
  · rw [he.cleared hc]
    exact pollBound_reached_zero _
  · obtain ⟨hq, hnt⟩ := (inPolls_next hm hq).resolve_left hc
    rw [he.counted hc hnt]
    exact h.bound hq

/-- The chip has received what the bracket open at the next position has sent. -/
theorem State.Fits.sent_next (hc : t.cs = .low) {n : Nat} (hn : q.next = .main n) : t.chip.rx = t.sentAt n := by
  obtain ⟨hparams, hlatch, -⟩ := he.same
  cases q with
  | exit k => cases hn
  | main k =>
    cases hn
    rw [he.sent hc, State.sentAt, sentAfter_congr hlatch hparams, hlatch.1, ← State.sentAt, State.sentAt_next hm]
    cases hs : s.cs with
    | low => rw [h.sent hs k rfl]
    | high =>
      obtain rfl : m = .csLow := levelAfter_low (by rw [← hs, ← he.level, hc])
      rfl

/-- A micro-operation that completes leads from one position to the next. -/
theorem State.Fits.next (hr : m ≠ .respond) : t.Fits q.next := by
  obtain ⟨hparams, hlatch, hrsp⟩ := he.same
  obtain ⟨hop, -, hlen, hpage⟩ := id hlatch
  exact
    { params := hparams ▸ h.params
      onProgram := hop ▸ microAt_next hm hr
      level := by rw [he.level, h.level, hop, levelAt_next hm]
      silent := hrsp ▸ h.silent
      still := he.gcnt ▸ h.still
      err := he.err ▸ errFits_next h.err
      page := hpage ▸ h.page
      width := by
        rw [hlen, hparams]
        exact h.width
      checked := fun hpp n hn => hlen ▸ h.checked_next hm he (hop ▸ hpp) hn
      bound := fun hq => by
        rw [hparams]
        exact h.bound_next hm he (hop ▸ hq)
      ready := fun hq => he.passed (pollsDone_next hm hr (hop ▸ hq))
      quiet := he.quiet
      sent := fun hc n hn => h.sent_next hm he hc hn
      chip := he.chip }
end

/-! ### Each micro-operation -/

@[simp] theorem State.chipAtCall_rx (s : State) : s.chipAtCall.rx = s.chip.rx := by
  unfold State.chipAtCall
  split <;> simp

@[simp] theorem State.chipAtCall_cut (s : State) : s.chipAtCall.cut = s.chip.cut := by
  unfold State.chipAtCall
  split <;> simp

theorem State.good_chipAtCall {s : State} (hp : s.params.capacity ≤ flashSpace) (h : s.chip.good s.params) :
    s.chipAtCall.good s.params := by
  unfold State.chipAtCall
  split
  · exact Chip.good_complete hp h
  · exact h

/-- Inside the selected bracket a call adds its bytes to what the chip has received. -/
theorem MicroOp.effect_xfer {s : State} (hp : s.params.capacity ≤ flashSpace) (hc : s.chip.good s.params)
    (hcs : s.cs = .low) (c : Call) :
    (MicroOp.xfer c).Effect s (c.keep (s.received (c.sends s)) (s.exchanged (c.sends s))) where
  same := ⟨by simp, ⟨by simp, by simp, by simp, by simp⟩, by simp⟩
  gcnt := by simp
  err := by simp
  level := by simp [levelAfter]
  quiet h := by simp [hcs] at h
  sent _ := by simp [hcs, State.selected, sentAfter]
  chip := by
    simp only [Call.keep_chip, Call.keep_params, State.exchanged_chip, State.exchanged_params]
    split
    · exact Chip.good_receive (State.good_chipAtCall hp hc) _
    · exact State.good_chipAtCall hp hc

section
variable {s : State} {q : Seq} (h : s.Fits q)
include h

theorem State.Fits.effect_delay (e : Event) : MicroOp.delay.Effect s (s.emit e) where
  quiet := h.quiet
  sent _ := rfl
  chip := h.chip

theorem State.Fits.effect_csLow : MicroOp.csLow.Effect s (s.setSelect .low) where
  quiet hc := by simp at hc
  sent _ := rfl
  chip := Chip.good_onSelect h.chip .low

theorem State.Fits.effect_csHigh : MicroOp.csHigh.Effect s (s.setSelect .high) where
  quiet _ := ⟨rfl, rfl⟩
  sent hc := by simp at hc
  chip := Chip.good_onSelect h.chip .high

theorem State.Fits.effect_lenCheck (hl : s.len = pageSize) : MicroOp.lenCheck.Effect s s where
  checked _ := hl
  quiet := h.quiet
  sent _ := rfl
  chip := h.chip

theorem State.Fits.effect_clearPolls : MicroOp.clearPolls.Effect s { s with pollcnt := 0 } where
  quiet := h.quiet
  sent _ := rfl
  chip := h.chip

theorem State.Fits.effect_pollTest (back : Nat) (hb : busy s.status = false) :
    (MicroOp.pollTest back).Effect s { s with pollcnt := s.pollcnt + 1 } where
  passed _ := ⟨Nat.le_add_left 1 _, hb⟩
  quiet := h.quiet
  sent _ := rfl
  chip := h.chip

/-- The poll test goes round again: the polls' bracket is fit to begin with the count one higher (R171). -/
theorem State.Fits.again {back : Nat} (hm : microAt s.op q = some (.pollTest back))
    (hb : s.params.maxPolls.reached (s.pollcnt + 1) = false) :
    ({ s with pollcnt := s.pollcnt + 1 } : State).Fits (.main back) := by
  obtain ⟨hon, hlevel, herr, hdone, hhigh, hchecked⟩ : (microAt s.op (.main back)).isSome ∧
      levelAt s.op q = levelAt s.op (.main back) ∧ errFits s.err (.main back) = errFits s.err q ∧
      pollsDone s.op (.main back) = false ∧ levelAt s.op (.main back) = .high ∧
      (s.op = .pageProgram → q = .main (23 + 1)) := by
    rcases microAt_pollTest hm with ⟨hop, rfl, rfl⟩ | ⟨hop, rfl, rfl⟩ <;> rw [hop] <;>
      exact ⟨by decide, by decide, rfl, by decide, by decide, by decide⟩
  exact { h with
    onProgram := hon
    level := h.level.trans hlevel
    err := herr ▸ h.err
    checked := fun hop n _ => h.checked hop 23 (hchecked hop)
    bound := fun _ => hb
    ready := fun hd => by rw [hdone] at hd; cases hd
    sent := fun hc => by
      have := h.level
      rw [show s.cs = .low from hc, hlevel, hhigh] at this
      cases this }

/-- The error exit begins, at E0 with the line low, which only a bus fault finds, and at E3 with it high. -/
theorem State.Fits.raise_inv {t : State} {e : Err} (hsame : s.sameOperation t) (hg : t.gcnt = s.gcnt)
    (he : e ≠ .ok) (hlow : t.cs = .low → e = .busFault)
    (hquiet : t.cs = .high → t.chip.rx = [] ∧ t.chip.cut = false) (hchip : t.chip.good t.params) :
    (t.raise e).Inv := by
  obtain ⟨hparams, ⟨hop, haddr, hlen, hpage⟩, hrsp⟩ := hsame
  refine State.Fits.goTo_inv (s := { t with err := e }) (q := .exit (if t.selected then 0 else 3)) ?_ (by simp)
  exact
    { params := hparams ▸ h.params
      onProgram := by dsimp only; split <;> rfl
      level := by cases hc : t.cs <;> simp [State.selected, hc] <;> rfl
      silent := hrsp ▸ h.silent
      still := hg ▸ h.still
      err := by
        cases hc : t.cs with
        | low => simp [State.selected, hc, errFits, hlow hc]
        | high => simp [State.selected, hc, errFits, he]
      page := hpage ▸ h.page
      width := by
        have := h.width
        rwa [← hlen, ← hparams] at this
      checked := by simp
      bound := by simp [inPolls]
      ready := by simp [pollsDone]
      quiet := hquiet
      sent := by simp
      chip := hchip }
end

/-! ### The invariant is kept -/

/-- What the chip has received stays in step with what was sent as long as neither changes. -/
theorem State.wireInv_congr {s t : State} (h : s.wireInv) (hsame : s.sameLatches t)
    (hparams : t.params = s.params) (hphase : t.phase = s.phase) (hseq : t.seq = s.seq) (hcs : t.cs = s.cs)
    (hrx : t.chip.rx = s.chip.rx) (hcut : t.chip.cut = s.chip.cut) : t.wireInv := by
  obtain ⟨hquiet, hsent⟩ := h
  refine ⟨fun hc => ?_, fun hi hc n hq => ?_⟩
  · rw [hrx, hcut]
    exact hquiet (hcs ▸ hc)
  · rw [hrx, sentAfter_congr hsame hparams, hsame.1]
    refine hsent ?_ (hcs ▸ hc) n (hseq ▸ hq)
    rwa [State.idle_eq_false, ← hphase, ← State.idle_eq_false]

/-- A guard delay counts down. -/
theorem State.Inv.countdown {s : State} {n : Nat} (h : s.Inv) (hp : s.phase ≠ .idle)
    (hm : microAt s.op s.seq = some .delay) (hn : n ≤ s.gcnt) : ({ s with gcnt := n } : State).Inv := by
  have hi : s.idle = false := (State.idle_eq_false s).2 hp
  have hd := h.delay
  rw [State.delayInv, if_pos ⟨hi, hm⟩] at hd
  refine ⟨h.params, h.control, ?_, h.err, h.latch, h.poll,
    State.wireInv_congr h.wire ⟨rfl, rfl, rfl, rfl⟩ rfl rfl rfl rfl rfl rfl, h.chip⟩
  rw [State.delayInv, if_pos (by exact ⟨hi, hm⟩)]
  exact hn.trans hd

/-- A state at rest with nothing pending meets the invariant. -/
theorem State.Inv.of_idle {s : State} (hi : s.phase = .idle) (hparams : s.params.wf) (hcs : s.cs = .high)
    (hg : s.gcnt = 0) (hpage : s.pagebuf.length = pageSize) (hwidth : s.len < 2 ^ s.params.lenWidth)
    (hrx : s.chip.rx = []) (hcut : s.chip.cut = false) (hchip : s.chip.good s.params) : s.Inv := by
  have hidle : s.idle = true := (State.idle_eq_true s).2 hi
  have hbusy : ∀ P : Prop, s.idle = false → P := fun P h => by simp [hidle] at h
  refine ⟨hparams, ?_, ?_, hbusy _, ⟨hpage, hwidth, hbusy _, hbusy _⟩, hbusy _,
    ⟨fun _ => ⟨hrx, hcut⟩, hbusy _⟩, hchip⟩
  · rwa [State.controlInv, if_pos hidle]
  · rwa [State.delayInv, if_neg (fun h => hbusy False h.1)]

theorem State.Inv.at_rest {s : State} (h : s.Inv) (hi : s.phase = .idle) : s.cs = .high := by
  have hc := h.control
  rwa [State.controlInv, if_pos ((State.idle_eq_true s).2 hi)] at hc

section
variable {s : State} {q : Seq} (h : s.Fits q)
include h

/-- Where a micro-operation other than a read's frame completes, the invariant holds at the next position. -/
theorem State.Fits.goTo_next_inv {t : State} {m : MicroOp} (hm : microAt s.op q = some m) (hr : m ≠ .respond)
    (hx : m ≠ .xfer .readFrame) (he : m.Effect s t) : (t.goTo q.next).Inv := by
  refine (h.next hm he hr).goTo_inv fun hop hq => ?_
  rw [he.same.2.1.1] at hop
  rw [hop] at hm
  exact absurd (readFrame_of_next hm hq) hx

/-- After a read's frame control goes to the data call when `LEN > 0`, else past it: a data call of no bytes
would send nothing (R191). -/
theorem State.Fits.goTo_readFrame_inv {t : State} (hm : microAt s.op q = some (.xfer .readFrame))
    (he : (MicroOp.xfer .readFrame).Effect s t) :
    (t.goTo (if s.len = 0 then q.next.next else q.next)).Inv := by
  have hf := h.next hm he (by simp)
  obtain ⟨hop, rfl⟩ := microAt_readFrame hm
  obtain ⟨hparams, ⟨htop, -, hlen, -⟩, -⟩ := he.same
  split
  next hl =>
    have hskip : (MicroOp.xfer .readData).Effect t t :=
      { quiet := hf.quiet
        sent := fun _ => by simp [sentAfter, Call.sends, State.dummies, hlen, hl]
        chip := hf.chip }
    exact hf.goTo_next_inv (by rw [htop, hop]; rfl) (by simp) (by simp) hskip
  next hl => exact hf.goTo_inv fun _ _ => hlen ▸ hl

end

section
variable {s : State} (h : s.Fits s.seq)
include h

/-- A transfer call keeps the invariant, carried out or faulted. -/
theorem State.Fits.xfer_inv {c : Call} (hm : microAt s.op s.seq = some (.xfer c)) :
    ((MicroOp.xfer c).run s).Inv := by
  have hcs : s.cs = .low := h.level.trans (levelAt_xfer hm)
  have hcap : s.params.capacity ≤ flashSpace := h.params.2.2
  rcases MicroOp.run_xfer_cases c s with hx | hx <;> rw [hx]
  · have he := MicroOp.effect_xfer hcap h.chip hcs c
    by_cases hc : c = .readFrame
    · subst hc
      simpa [Call.target] using h.goTo_readFrame_inv hm he
    · simpa [Call.target, hc] using h.goTo_next_inv hm (by simp) (by simpa using hc) he
  · refine h.raise_inv ⟨rfl, ⟨rfl, rfl, rfl, rfl⟩, rfl⟩ rfl (by simp) (fun _ => rfl) (fun hh => ?_) ?_
    · simp [hcs] at hh
    · rw [State.faulted_chip, if_pos ((State.selected_eq_true s).2 hcs)]
      exact Chip.good_faulted hcap (State.good_chipAtCall hcap h.chip) _ _

/-- The poll test keeps the invariant: success, out of polls, or round again. -/
theorem State.Fits.pollTest_inv {back : Nat} (hm : microAt s.op s.seq = some (.pollTest back)) :
    (s.pollTest back).Inv := by
  cases hb : busy s.status with
  | false =>
    rw [State.pollTest_ready hb]
    exact h.goTo_next_inv hm (by simp) (by simp) (h.effect_pollTest back hb)
  | true =>
    cases hr : s.params.maxPolls.reached (s.pollcnt + 1) with
    | false =>
      rw [State.pollTest_again hb hr]
      exact (h.again hm hr).goTo_inv fun _ hback => by
        rcases microAt_pollTest hm with ⟨-, -, rfl⟩ | ⟨-, -, rfl⟩ <;> cases hback
    | true =>
      rw [State.pollTest_timeout hb hr]
      have hhigh : s.cs = .high := h.level.trans (levelAt_pollTest hm)
      refine h.raise_inv ⟨by simp, ⟨by simp, by simp, by simp, by simp⟩, by simp⟩ (by simp) (by simp) ?_ ?_ ?_
      · simp [hhigh]
      · simpa using h.quiet
      · rw [State.doubt_params]
        exact State.good_doubt (s := { s with pollcnt := s.pollcnt + 1 }) h.params.2.2 h.chip

theorem State.Fits.lenCheck_inv (hm : microAt s.op s.seq = some .lenCheck) : s.lenCheck.Inv := by
  by_cases hl : s.len = pageSize
  · rw [State.lenCheck_page hl]
    exact h.goTo_next_inv hm (by simp) (by simp) (h.effect_lenCheck hl)
  · rw [State.lenCheck_other hl]
    have hhigh : s.cs = .high := by
      rw [h.level]
      obtain ⟨hop, hq⟩ := microAt_lenCheck hm
      rw [hop, hq]
      decide
    exact h.raise_inv ⟨rfl, ⟨rfl, rfl, rfl, rfl⟩, rfl⟩ rfl (by simp) (by simp [hhigh]) h.quiet h.chip
end

/-- A guard delay counts down or, at 0, ends. -/
theorem State.Inv.delayCycle {s : State} (h : s.Inv) (hp : s.phase ≠ .idle)
    (hm : microAt s.op s.seq = some .delay) : s.delayCycle.Inv := by
  cases hg : s.gcnt with
  | succ n =>
    rw [State.delayCycle_succ hg]
    exact h.countdown hp hm (by omega)
  | zero =>
    rw [State.delayCycle_zero hg]
    have hf := h.fits hp hg
    exact hf.goTo_next_inv hm (by simp) (by simp) (hf.effect_delay _)

/-- Every micro-operation keeps the invariant. -/
theorem State.Inv.run {s : State} {m : MicroOp} (h : s.Inv) (hp : s.phase ≠ .idle)
    (hm : microAt s.op s.seq = some m) : (m.run s).Inv := by
  by_cases hd : m = .delay
  · subst hd
    exact h.delayCycle hp hm
  have hg : s.gcnt = 0 := h.gcnt_zero (.inr (by simpa [hm] using hd))
  have hf := h.fits hp hg
  cases m with
  | delay => exact absurd rfl hd
  | csLow => exact hf.goTo_next_inv hm (by simp) (by simp) hf.effect_csLow
  | csHigh => exact hf.goTo_next_inv hm (by simp) (by simp) hf.effect_csHigh
  | xfer c => exact hf.xfer_inv hm
  | lenCheck => exact hf.lenCheck_inv hm
  | clearPolls => exact hf.goTo_next_inv hm (by simp) (by simp) hf.effect_clearPolls
  | pollTest back => exact hf.pollTest_inv hm
  | respond =>
    have hcs : s.cs = .high := hf.level.trans (levelAt_respond hm)
    obtain ⟨hrx, hcut⟩ := hf.quiet hcs
    exact .of_idle rfl hf.params hcs hg hf.page hf.width hrx hcut hf.chip

/-- Accepting a request keeps the invariant; while an operation runs it changes nothing. -/
theorem State.Inv.accept {s : State} (h : s.Inv) (r : Request) : (s.accept r).Inv := by
  by_cases hp : s.phase = .idle
  · have hcs := h.at_rest hp
    rw [State.accept_idle hp]
    refine State.Fits.goTo_inv ?_ (by simp)
    exact
      { params := h.params
        onProgram := microAt_zero r.op
        level := hcs
        silent := rfl
        still := h.gcnt_zero (.inl hp)
        err := rfl
        page := by
          simp only [State.emit_pagebuf, acceptPage]
          split_ifs with hr
          · exact hr.2.2
          · exact h.latch.1
        width := Nat.mod_lt _ (Nat.two_pow_pos _)
        checked := by simp
        bound := fun hq => by rw [State.emit_op, (polls_zero r.op).1] at hq; cases hq
        ready := fun hq => by rw [State.emit_op, (polls_zero r.op).2] at hq; cases hq
        quiet := fun _ => h.wire.1 hcs
        sent := by simp [hcs]
        chip := h.chip }
  · rw [State.accept_running hp]
    exact h

/-- The reset input puts the block into a state at rest (R260). -/
theorem State.Inv.resetInput {s : State} (h : s.Inv) : s.resetInput.Inv := by
  have hchip : s.chipAfterReset.rx = [] ∧ s.chipAfterReset.cut = false ∧ s.chipAfterReset.good s.params := by
    have hquiet := h.wire.1
    rcases State.chipAfterReset_cases s with ⟨hcs, hc | hc | hc⟩ | ⟨hcs, hc⟩ <;> rw [hc]
    · exact ⟨(hquiet hcs).1, (hquiet hcs).2, h.chip⟩
    · exact ⟨by simp [hquiet hcs], by simp [hquiet hcs], State.good_spoiledChip h.params.2.2 h.chip⟩
    · exact ⟨by simp [hquiet hcs], by simp [hquiet hcs], Chip.good_lose _ _⟩
    · exact ⟨rfl, rfl, Chip.good_lose s.params s.chip⟩
  obtain ⟨hrx, hcut, hgood⟩ := hchip
  exact .of_idle rfl h.params rfl rfl blankPage_length (Nat.two_pow_pos _) hrx hcut hgood

/-- The two lists of the outside are no part of the invariant. -/
theorem State.Inv.withInputs {s : State} (h : s.Inv) (host : List PortWord) (async : List Timed) :
    (s.withInputs host async).Inv :=
  ⟨h.params, h.control, h.delay, h.err, h.latch, h.poll,
    State.wireInv_congr h.wire ⟨rfl, rfl, rfl, rfl⟩ rfl rfl rfl rfl rfl rfl, h.chip⟩

/-- The chip's own completion keeps the invariant. -/
theorem State.Inv.completes {s : State} (h : s.Inv) (async : List Timed) :
    ({ s.withInputs s.host async with chip := s.chip.complete s.params } : State).Inv :=
  ⟨h.params, h.control, h.delay, h.err, h.latch, h.poll,
    State.wireInv_congr h.wire ⟨rfl, rfl, rfl, rfl⟩ rfl rfl rfl rfl (by simp) (by simp),
    Chip.good_complete h.params.2.2 h.chip⟩

/-- Settles O36, by cases on what a step can be. -/
theorem stepKeepsTheInvariant : Obligations.StepKeepsTheInvariant := by
  intro s t h hstep
  cases stepCase_of_step hstep with
  | waits host async => exact h.withInputs host async
  | accepts host async r => exact (h.withInputs host async).accept r
  | runs async m hp hm => exact (h.withInputs s.host async).run hp hm
  | completes async => exact h.completes async
  | resets rest _ => exact (h.withInputs s.host rest).resetInput

end Sys2Proof.Machine
end

section
/-! PROOFS. The rules of the trace over one micro-operation: `Follows q` is what the reader of the trace
knows of an operation whose control is about to go to `q`. The bytes of the open bracket are told by its
calls, which the tables of the micro-programs give. -/

namespace Sys2Proof.Machine

open Config

/-! ### The calls of the open bracket -/

/-- The calls made in the open bracket after some micro-operations. -/
def callsAfter : List Call → List MicroOp → List Call
  | calls, [] => calls
  | _, .csLow :: rest => callsAfter [] rest
  | _, .csHigh :: rest => callsAfter [] rest
  | calls, .xfer c :: rest => callsAfter (calls ++ [c]) rest
  | calls, _ :: rest => callsAfter calls rest

/-- The calls made in the open bracket when control is at a position. -/
def callsAt (op : Op) : Seq → List Call
  | .main n => callsAfter [] ((program op).take n)
  | .exit _ => []

theorem sentAfter_calls (s : State) (calls : List Call) (xs : List MicroOp) :
    sentAfter s (calls.flatMap (Call.sends s)) xs = (callsAfter calls xs).flatMap (Call.sends s) := by
  induction xs generalizing calls with
  | nil => rfl
  | cons m xs ih =>
    cases m with
    | xfer c => simpa [sentAfter, callsAfter] using ih (calls ++ [c])
    | csLow => exact ih []
    | csHigh => exact ih []
    | _ => exact ih calls

/-- The bytes of the open bracket are those of its calls. -/
theorem State.sentAt_calls (s : State) (n : Nat) :
    s.sentAt n = (callsAt s.op (.main n)).flatMap (Call.sends s) :=
  sentAfter_calls s [] _

/-- The calls that come before a call in its bracket: the frame before the data. -/
def Call.before : Call → List Call
  | .readData => [.readFrame]
  | .programData => [.programFrame]
  | .writeEnable => []
  | .status => []
  | .readFrame => []
  | .eraseFrame => []
  | .programFrame => []

theorem callsAt_xfer {op : Op} {q : Seq} {c : Call} (h : microAt op q = some (.xfer c)) :
    callsAt op q = c.before :=
  of_table (P := fun q m => m = .xfer c → callsAt op q = c.before) (by cases op <;> cases c <;> decide) h rfl

/-- What a deselect at `q` ends: one of the five brackets, and what the position after it says of that. -/
abbrev endsBracket (op : Op) (q : Seq) : Prop :=
  callsAt op q = [.writeEnable] ∨
    armedAt op q.next = false ∧
      (callsAt op q = [.status] ∨ callsAt op q = [.readFrame, .readData] ∨
        owesAt op q.next = true ∧ (callsAt op q = [.eraseFrame] ∨ callsAt op q = [.programFrame, .programData]))

/-- Every deselect but that of the error exit ends a whole bracket. -/
theorem endsBracket_csHigh {op : Op} {n : Nat} (h : microAt op (.main n) = some .csHigh) : endsBracket op (.main n) :=
  of_table (P := fun q m => m = .csHigh → q ≠ .exit 1 → endsBracket op q) (by cases op <;> decide) h rfl (by simp)

/-- The line is low where it is driven high. -/
theorem levelAt_csHigh {op : Op} {q : Seq} (h : microAt op q = some .csHigh) : levelAt op q = .low :=
  of_table (P := fun q m => m = .csHigh → levelAt op q = .low) (by cases op <;> decide) h rfl

theorem microAt_exit_csHigh {op : Op} {n : Nat} (h : microAt op (.exit n) = some .csHigh) : n = 1 := by
  obtain ⟨hn, hx⟩ := List.getElem?_eq_some_iff.1 h
  have hn4 : n < 4 := hn
  interval_cases n <;> simp_all [exitProgram]

theorem levelAt_csLow {op : Op} {q : Seq} (h : microAt op q = some .csLow) : levelAt op q = .high :=
  of_table (P := fun q m => m = .csLow → levelAt op q = .high) (by cases op <;> decide) h rfl

theorem microAt_readData {op : Op} {q : Seq} (h : microAt op q = some (.xfer .readData)) :
    op = .read ∧ q = .main 4 :=
  of_table (P := fun q m => m = .xfer .readData → op = .read ∧ q = .main 4) (by cases op <;> decide) h rfl

/-- Only the end of a bracket arms a destructive command (R196). -/
theorem armedAt_of_next {op : Op} {q : Seq} {m : MicroOp} (h : microAt op q = some m) (hm : m ≠ .csHigh)
    (hn : armedAt op q.next = true) : armedAt op q = true :=
  of_table (P := fun q m => m ≠ .csHigh → armedAt op q.next = true → armedAt op q = true)
    (by cases op <;> decide) h hm hn

/-- What is owed after a destructive bracket is paid by the status read, with no other call before (R197). -/
theorem owesAt_next {op : Op} {q : Seq} {m : MicroOp} (h : microAt op q = some m) (ho : owesAt op q = true) :
    m = .xfer .status ∨ (m = .delay ∨ m = .csLow ∨ m = .clearPolls) ∧ owesAt op q.next = true :=
  of_table (P := fun q m => owesAt op q = true → m = .xfer .status ∨
    (m = .delay ∨ m = .csLow ∨ m = .clearPolls) ∧ owesAt op q.next = true) (by cases op <;> decide) h ho

/-- A destructive command's frame is sent in an armed bracket only. -/
theorem armedAt_frame {op : Op} {q : Seq} {c : Call} (h : microAt op q = some (.xfer c))
    (hc : c = .eraseFrame ∨ c = .programFrame) : armedAt op q = true :=
  of_table (P := fun q m => m = .xfer c → c = .eraseFrame ∨ c = .programFrame → armedAt op q = true)
    (by cases op <;> cases c <;> decide) h rfl hc

/-! ### What the reader knows -/

/-- What a reader of the trace knows of an operation in progress when control goes to `q`. -/
structure Watch.Follows (w : Watch) (s : State) (q : Seq) : Prop where
  running : w.running = true
  level : w.level = s.cs
  broken : w.broken = (s.err == .busFault)
  sent : s.cs = .low → w.broken = false → w.sent = s.chip.rx
  armed : armedAt s.op q = true → w.armed = true
  owes : w.owes = true → owesAt s.op q = true
  resetting : w.resetting = false

theorem Watch.Follows.goTo {w : Watch} {s : State} {q : Seq} (h : w.Follows s q) : w.Agrees (s.goTo q) where
  running := by simp [h.running, State.idle]
  level := h.level
  broken := by simp [h.broken, State.idle]
  sent := h.sent
  armed _ := h.armed
  owes ho := ⟨by simp, h.owes ho⟩
  resetting := h.resetting

theorem Watch.Agrees.follows {w : Watch} {s : State} (h : w.Agrees s) (hp : s.phase ≠ .idle) :
    w.Follows s s.seq where
  running := by simpa [State.idle] using h.running.trans (by simpa [State.idle] using hp)
  level := h.level
  broken := by simpa [(State.idle_eq_false s).2 hp] using h.broken
  sent := h.sent
  armed := h.armed ((State.idle_eq_false s).2 hp)
  owes ho := (h.owes ho).2
  resetting := h.resetting

/-- At rest with the line high the reader knows of nothing. -/
theorem Watch.agrees_rest {s : State} (hp : s.phase = .idle) (hcs : s.cs = .high) : Watch.rest.Agrees s where
  running := by simp [Watch.rest, State.idle, hp]
  level := hcs.symm
  broken := by simp [Watch.rest, State.idle, hp]
  sent hc := by simp [hcs] at hc
  armed hi := by simp [State.idle, hp] at hi
  owes ho := by cases ho
  resetting := rfl

theorem Watch.readAll_append (w : Watch) (xs ys : List Event) :
    w.readAll (xs ++ ys) = (w.readAll xs).bind (fun v => v.readAll ys) := by
  induction xs generalizing w with
  | nil => rfl
  | cons e xs ih =>
    rw [List.cons_append, Watch.readAll, Watch.readAll]
    cases w.read e with
    | none => rfl
    | some v => exact ih v

/-- A step that appends some events keeps the rules if its reader accepts them. -/
theorem State.traceInv_of_events {s t : State} {w v : Watch} {events : List Event}
    (hw : Watch.rest.readAll s.trace = some w) (ht : t.trace = s.trace ++ events)
    (hr : w.readAll events = some v) (ha : v.Agrees t) : t.traceInv :=
  ⟨v, by rw [ht, Watch.readAll_append, hw]; exact hr, ha⟩

theorem Watch.readAll_one (w : Watch) (e : Event) : w.readAll [e] = w.read e := by
  rw [Watch.readAll]
  cases w.read e <;> rfl

/-- What the reader knows after the line has gone high. -/
def Watch.closed (w : Watch) : Watch :=
  { w with
    level := .high
    sent := []
    armed := !w.broken && w.sent == frame .writeEnable
    owes := w.owes || (!w.broken && destructive (w.sent.headD 0x00#8)) }

/-- What the reader knows after a call of `tx`. -/
def Watch.called (w : Watch) (tx : List Byte) : Watch :=
  { w with sent := w.sent ++ tx, owes := w.owes && w.sent != [] }

section
variable {w : Watch} {s : State} {q : Seq} (h : w.Follows s q)
include h

/-- Inside the micro-program no call has faulted. -/
theorem Watch.Follows.unbroken (hok : s.err ≠ .busFault) : w.broken = false := by
  simpa [h.broken] using hok

theorem Watch.Follows.read_csLow (hok : s.err ≠ .busFault) (hcs : s.cs = .high) :
    w.read (.cs .low) = some { w with level := .low, sent := [] } := by
  simp [Watch.read, h.running, h.level, hcs, h.unbroken hok]

theorem Watch.Follows.read_csHigh (hcs : s.cs = .low) (hsent : w.broken = true ∨ bracketOk w.sent = true) :
    w.read (.cs .high) = some w.closed := by
  simp [Watch.read, Watch.closed, h.resetting, h.running, h.level, hcs, hsent]

/-- Nothing is owed but at the status read and on the way to it. -/
theorem Watch.Follows.owes_nothing {m : MicroOp} (hm : microAt s.op q = some m) (hx : m ≠ .xfer .status)
    (hs : m ≠ .delay ∧ m ≠ .csLow ∧ m ≠ .clearPolls) : w.owes = false := by
  by_contra ho
  rcases owesAt_next hm (h.owes (by simpa using ho)) with hx' | ⟨hd | hd | hd, -⟩
  · exact hx hx'
  · exact hs.1 hd
  · exact hs.2.1 hd
  · exact hs.2.2 hd

/-- A micro-operation without an event, and a guard delay, lead to the next position. -/
theorem Watch.Follows.next {t : State} {m : MicroOp} (hm : microAt s.op q = some m) (hl : m ≠ .csHigh)
    (hx : ∀ c, m ≠ .xfer c) (hop : t.op = s.op) (hcs : t.cs = s.cs) (herr : t.err = s.err)
    (hrx : t.chip.rx = s.chip.rx) : w.Follows t q.next where
  running := h.running
  level := h.level.trans hcs.symm
  broken := by rw [herr, h.broken]
  sent hc hb := by rw [hrx, h.sent (hcs ▸ hc) hb]
  armed ha := h.armed (armedAt_of_next hm hl (hop ▸ ha))
  owes ho := hop ▸ (owesAt_next hm (h.owes ho)).elim (fun hc => absurd hc (hx _)) (·.2)
  resetting := h.resetting

end

/-- An error is raised while nothing is owed. -/
theorem Watch.agrees_raise {t : State} {e : Err} {v : Watch} (hrun : v.running = true)
    (hlevel : v.level = t.cs) (hbroken : v.broken = (e == .busFault))
    (hsent : t.cs = .low → v.broken = true) (howes : v.owes = false) (hreset : v.resetting = false) :
    v.Agrees (t.raise e) := by
  refine Watch.Follows.goTo (s := { t with err := e })
    ⟨hrun, hlevel, hbroken, fun hc hb => ?_, fun ha => ?_, fun ho => ?_, hreset⟩
  · rw [hsent hc] at hb
    cases hb
  · cases ha
  · rw [howes] at ho
    cases ho

/-! ### Calls and the ends of brackets -/

theorem errFits_main {e : Err} {n : Nat} (h : errFits e (.main n) = true) : e = .ok := by
  simpa [errFits] using h

/-- The micro-operations that the error exit does not share run with `ERR = OK`. -/
theorem State.Fits.err_ok {s : State} {m : MicroOp} (h : s.Fits s.seq) (hm : microAt s.op s.seq = some m)
    (hd : m ≠ .delay) (hc : m ≠ .csHigh) (hr : m ≠ .respond) : s.err = .ok := by
  obtain ⟨n, hn⟩ := main_of_microAt hm hd hc hr
  exact errFits_main (hn ▸ h.err)

/-- The opcode that opens each call, when it is the first of its bracket (R104). -/
theorem Call.sends_head (s : State) {c : Call} (hc : c.before = []) :
    ∃ b rest, c.sends s = b :: rest ∧ isOpcode b = true ∧
      (destructive b = true → c = .eraseFrame ∨ c = .programFrame) := by
  cases c with
  | readData => cases hc
  | programData => cases hc
  | writeEnable => exact ⟨_, _, rfl, by decide, fun hd => absurd hd (by decide)⟩
  | status => exact ⟨_, _, rfl, by decide, fun hd => absurd hd (by decide)⟩
  | readFrame => exact ⟨_, _, rfl, by decide, fun hd => absurd hd (by decide)⟩
  | eraseFrame => exact ⟨_, _, rfl, by decide, fun _ => .inl rfl⟩
  | programFrame => exact ⟨_, _, rfl, by decide, fun _ => .inr rfl⟩

/-- A call that is not the first of its bracket sends data after its frame. -/
theorem Call.before_sends (s : State) {c : Call} (hc : c.before ≠ []) :
    c.before.flatMap (Call.sends s) ≠ [] := by
  cases c <;> simp_all [Call.before, Call.sends, frame]

theorem Call.sends_ne_nil {s : State} {c : Call} (hpage : s.pagebuf.length = pageSize)
    (hdata : c = .readData → s.len ≠ 0) : c.sends s ≠ [] := by
  cases c with
  | readData => simpa [Call.sends, State.dummies] using hdata rfl
  | programData => exact List.ne_nil_of_length_pos (by simp [Call.sends, hpage])
  | _ => exact List.cons_ne_nil _ _

/-- Each of the five brackets is whole, arms what it should, and leaves owed what it should (R194, R196, R197). -/
theorem bracket_whole {s : State} {n : Nat} (hpage : s.pagebuf.length = pageSize)
    (hm : microAt s.op (.main n) = some .csHigh) {sent : List Byte}
    (hs : sent = (callsAt s.op (.main n)).flatMap (Call.sends s)) :
    bracketOk sent = true ∧ (armedAt s.op (.main (n + 1)) = true → sent = frame .writeEnable) ∧
      (destructive (sent.headD 0x00#8) = true → owesAt s.op (.main (n + 1)) = true) := by
  have hnot : armedAt s.op (.main (n + 1)) = false → armedAt s.op (.main (n + 1)) = true →
      sent = frame .writeEnable := fun hf ht => by simp [hf] at ht
  rcases endsBracket_csHigh hm with hc | ⟨ha, hc | hc | ⟨ho, hc | hc⟩⟩ <;> rw [hc] at hs <;> subst hs
  · exact ⟨rfl, fun _ => rfl, fun hd => absurd (show destructive opWriteEnable = true from hd) (by decide)⟩
  · exact ⟨rfl, hnot ha, fun hd => absurd (show destructive opReadStatus = true from hd) (by decide)⟩
  · exact ⟨rfl, hnot ha, fun hd => absurd (show destructive opRead = true from hd) (by decide)⟩
  · exact ⟨rfl, hnot ha, fun _ => ho⟩
  · refine ⟨?_, hnot ha, fun _ => ho⟩
    simp [bracketOk, Call.sends, frame, addr3, hpage]

section
variable {w : Watch} {s : State} (hf : s.Fits s.seq) (h : w.Follows s s.seq)
include hf h

/-- Between its calls the reader knows the bytes of the open bracket. -/
theorem Watch.Follows.sent_calls {n : Nat} (hq : s.seq = .main n) (hcs : s.cs = .low) :
    w.broken = false ∧ w.sent = (callsAt s.op s.seq).flatMap (Call.sends s) := by
  have hok : s.err = .ok := errFits_main (hq ▸ hf.err)
  have hb := h.unbroken (by rw [hok]; decide)
  rw [h.sent hcs hb, hf.sent hcs n hq, State.sentAt_calls, hq]
  exact ⟨hb, rfl⟩

theorem Watch.Follows.callOk {c : Call} (hm : microAt s.op s.seq = some (.xfer c))
    (hdata : c = .readData → s.len ≠ 0) :
    w.callOk (c.sends s) = true ∧ (w.called (c.sends s)).owes = false := by
  have hcs : s.cs = .low := hf.level.trans (levelAt_xfer hm)
  obtain ⟨n, hq⟩ := main_of_microAt hm (by simp) (by simp) (by simp)
  obtain ⟨hb, hsent⟩ := h.sent_calls hf hq hcs
  rw [callsAt_xfer hm] at hsent
  have htx : c.sends s ≠ [] := Call.sends_ne_nil hf.page hdata
  by_cases hfirst : c.before = []
  · rw [hfirst] at hsent
    obtain ⟨b, rest, hhead, hop, hdes⟩ := Call.sends_head s hfirst
    have harmed : destructive b = false ∨ w.armed = true := by
      cases hd : destructive b with
      | false => exact .inl rfl
      | true => exact .inr (h.armed (armedAt_frame hm (hdes hd)))
    have howes : w.owes = false ∨ c.sends s = statusExchange := by
      cases ho : w.owes with
      | false => exact .inl rfl
      | true =>
        rcases owesAt_next hm (h.owes ho) with hc | ⟨hc | hc | hc, -⟩ <;> cases hc
        exact .inr rfl
    rw [hhead] at howes ⊢
    simp [Watch.callOk, Watch.called, h.running, h.level, hcs, hb, hsent, hop, harmed, howes]
  · have hne : w.sent ≠ [] := hsent ▸ Call.before_sends s hfirst
    have howes : w.owes = false := h.owes_nothing hm (fun hc => hfirst (by cases hc; rfl)) (by simp)
    simp [Watch.callOk, Watch.called, h.running, h.level, hcs, hb, hne, htx, howes]

/-- The end of a bracket is in order: a whole bracket, or the bracket of a fault. -/
theorem Watch.Follows.bracket_ends (hm : microAt s.op s.seq = some .csHigh) :
    w.read (.cs .high) = some w.closed ∧ w.closed.Follows (s.setSelect .high) s.seq.next := by
  have hcs : s.cs = .low := hf.level.trans (levelAt_csHigh hm)
  have howes : w.owes = false := h.owes_nothing hm (by simp) (by simp)
  cases hq : s.seq with
  | exit n =>
    have herr := hf.err
    rw [hq] at hm herr
    obtain rfl := microAt_exit_csHigh hm
    have hb : w.broken = true := by
      rw [h.broken]
      simpa [errFits] using (Bool.and_eq_true_iff.1 herr).2
    refine ⟨h.read_csHigh hcs (.inl hb), h.running, rfl, h.broken, by simp, fun ha => ?_, fun ho => ?_,
      h.resetting⟩
    · cases ha
    · simp [Watch.closed, howes, hb] at ho
  | main n =>
    obtain ⟨hb, hsent⟩ := h.sent_calls hf hq hcs
    rw [hq] at hm hsent
    obtain ⟨hok, harmed, hdes⟩ := bracket_whole hf.page hm hsent
    refine ⟨h.read_csHigh hcs (.inr hok), h.running, rfl, h.broken, by simp, fun ha => ?_, fun ho => ?_,
      h.resetting⟩
    · simp [Watch.closed, hb, harmed ha]
    · exact hdes (by simpa [Watch.closed, howes, hb] using ho)

/-- A call carried out is in order, and leads to the next position or past a read's data call. -/
theorem Watch.Follows.call_ends {c : Call} (hm : microAt s.op s.seq = some (.xfer c))
    (hdata : c = .readData → s.len ≠ 0) :
    w.readAll [.xfer (c.sends s) (s.received (c.sends s))] = some (w.called (c.sends s)) ∧
      (w.called (c.sends s)).Follows (c.keep (s.received (c.sends s)) (s.exchanged (c.sends s))) (c.target s) := by
  have hcs : s.cs = .low := hf.level.trans (levelAt_xfer hm)
  obtain ⟨hok, howes⟩ := h.callOk hf hm hdata
  refine ⟨?_, h.running, by simp [Watch.called, h.level], by simp [Watch.called, h.broken], fun _ hb => ?_,
    fun ha => ?_, fun ho => ?_, h.resetting⟩
  · rw [Watch.readAll_one, Watch.read, if_pos (by simp [hok]), Watch.called]
  · simp [Watch.called, State.selected, hcs, h.sent hcs hb]
  · simp only [Call.keep_op, State.exchanged_op, Call.target] at ha
    split at ha
    next hskip =>
      rw [hskip.1] at hm
      rw [(microAt_readFrame hm).1, (microAt_readFrame hm).2] at ha
      cases ha
    next => exact h.armed (armedAt_of_next hm (by simp) ha)
  · rw [howes] at ho
    cases ho

/-- A call the transport faults is in order, and the reader knows of the fault. -/
theorem Watch.Follows.call_faults {c : Call} (hm : microAt s.op s.seq = some (.xfer c))
    (hdata : c = .readData → s.len ≠ 0) :
    ∃ v : Watch, w.readAll [.xferFault (c.sends s)] = some v ∧
      v.Agrees ((s.faulted (c.sends s)).raise .busFault) := by
  obtain ⟨hok, howes⟩ := h.callOk hf hm hdata
  refine ⟨{ w with broken := true, owes := w.owes && w.sent != [] }, ?_,
    Watch.agrees_raise h.running h.level rfl (fun _ => rfl) howes h.resetting⟩
  rw [Watch.readAll_one, Watch.read, if_pos hok]

/-- The response ends the operation for the reader too. -/
theorem Watch.Follows.respond_ends (hm : microAt s.op s.seq = some .respond) :
    w.readAll [.rsp s.response] = some Watch.rest ∧ Watch.rest.Agrees s.respond := by
  have hcs : s.cs = .high := hf.level.trans (levelAt_respond hm)
  have howes : w.owes = false := h.owes_nothing hm (by simp) (by simp)
  refine ⟨?_, Watch.agrees_rest rfl hcs⟩
  rw [Watch.readAll_one, Watch.read, if_pos]
  simp [h.running, h.level, hcs, howes, h.broken, State.response]
end

/-! ### The rules are kept -/

/-- A guard delay keeps the rules. -/
theorem State.traceInv_delayCycle {s : State} (ht : s.traceInv) (hp : s.phase ≠ .idle)
    (hm : microAt s.op s.seq = some .delay) : s.delayCycle.traceInv := by
  obtain ⟨w, hw, ha⟩ := ht
  cases hg : s.gcnt with
  | succ n =>
    rw [State.delayCycle_succ hg]
    exact ⟨w, hw, ha.running, ha.level, ha.broken, ha.sent, ha.armed, ha.owes, ha.resetting⟩
  | zero =>
    rw [State.delayCycle_zero hg]
    exact State.traceInv_of_events hw rfl rfl
      ((ha.follows hp).next (t := s.emit _) hm (by simp) (by simp) rfl rfl rfl rfl).goTo

section
variable {w : Watch} {s : State} (hf : s.Fits s.seq) (h : w.Follows s s.seq)
  (hw : Watch.rest.readAll s.trace = some w)
include hf h hw

theorem State.Fits.traceInv_csLow (hm : microAt s.op s.seq = some .csLow) : (s.setSelect .low).advance.traceInv := by
  have hok : s.err ≠ .busFault := by simp [hf.err_ok hm]
  have hr := h.read_csLow hok (hf.level.trans (levelAt_csLow hm))
  refine State.traceInv_of_events (t := (s.setSelect .low).advance) hw rfl (by rwa [Watch.readAll_one])
    (Watch.Follows.goTo (s := s.setSelect .low) ?_)
  exact ⟨h.running, rfl, h.broken, fun _ _ => rfl, fun ha => h.armed (armedAt_of_next hm (by simp) ha),
    fun ho => (owesAt_next hm (h.owes ho)).elim (fun hc => by cases hc) (·.2), h.resetting⟩

theorem State.Fits.traceInv_csHigh (hm : microAt s.op s.seq = some .csHigh) :
    (s.setSelect .high).advance.traceInv := by
  obtain ⟨hr, hfo⟩ := h.bracket_ends hf hm
  exact State.traceInv_of_events hw rfl (by rwa [Watch.readAll_one]) hfo.goTo

theorem State.Fits.traceInv_xfer {c : Call} (hm : microAt s.op s.seq = some (.xfer c))
    (hdata : c = .readData → s.len ≠ 0) : ((MicroOp.xfer c).run s).traceInv := by
  rcases MicroOp.run_xfer_cases c s with hx | hx <;> rw [hx]
  · obtain ⟨hr, hfo⟩ := h.call_ends hf hm hdata
    exact State.traceInv_of_events hw (by simp) hr hfo.goTo
  · obtain ⟨v, hr, ha⟩ := h.call_faults hf hm hdata
    exact State.traceInv_of_events hw (by simp) hr ha

theorem State.Fits.traceInv_lenCheck (hm : microAt s.op s.seq = some .lenCheck) : s.lenCheck.traceInv := by
  by_cases hl : s.len = pageSize
  · rw [State.lenCheck_page hl]
    exact ⟨w, hw, (h.next hm (by simp) (by simp) rfl rfl rfl rfl).goTo⟩
  · rw [State.lenCheck_other hl]
    have hb : w.broken = false := h.unbroken (by simp [hf.err_ok hm])
    have hcs : s.cs = .high := by
      rw [hf.level, (microAt_lenCheck hm).1, (microAt_lenCheck hm).2]
      rfl
    exact ⟨w, hw, Watch.agrees_raise h.running h.level hb (by simp [hcs])
      (h.owes_nothing hm (by simp) (by simp)) h.resetting⟩

theorem State.Fits.traceInv_pollTest {back : Nat} (hm : microAt s.op s.seq = some (.pollTest back)) :
    (s.pollTest back).traceInv := by
  have howes : w.owes = false := h.owes_nothing hm (by simp) (by simp)
  cases hb : busy s.status with
  | false =>
    rw [State.pollTest_ready hb]
    exact ⟨w, hw, (h.next (t := { s with pollcnt := s.pollcnt + 1 }) hm (by simp) (by simp) rfl rfl rfl rfl).goTo⟩
  | true =>
    cases hr : s.params.maxPolls.reached (s.pollcnt + 1) with
    | false =>
      rw [State.pollTest_again hb hr]
      refine ⟨w, hw, Watch.Follows.goTo (s := { s with pollcnt := _ })
        ⟨h.running, h.level, h.broken, h.sent, fun ha => ?_, by simp [howes], h.resetting⟩⟩
      rcases microAt_pollTest hm with ⟨hop, -, rfl⟩ | ⟨hop, -, rfl⟩ <;> simp [armedAt, hop] at ha
    | true =>
      rw [State.pollTest_timeout hb hr]
      have hbr : w.broken = false := h.unbroken (by simp [hf.err_ok hm])
      exact ⟨w, by simpa using hw, Watch.agrees_raise h.running (by simp [h.level]) hbr
        (by simp [levelAt_pollTest hm, hf.level]) howes h.resetting⟩

end

/-- Every micro-operation keeps the rules of the trace. -/
theorem State.traceInv_run {s : State} {m : MicroOp} (h : s.Inv) (ht : s.traceInv) (hp : s.phase ≠ .idle)
    (hm : microAt s.op s.seq = some m) : (m.run s).traceInv := by
  by_cases hd : m = .delay
  · subst hd
    exact State.traceInv_delayCycle ht hp hm
  have hf := h.fits hp (h.gcnt_zero (.inr (by simpa [hm] using hd)))
  obtain ⟨w, hw, ha⟩ := ht
  have hfo := ha.follows hp
  cases m with
  | delay => exact absurd rfl hd
  | csLow => exact hf.traceInv_csLow hfo hw hm
  | csHigh => exact hf.traceInv_csHigh hfo hw hm
  | xfer c =>
    refine hf.traceInv_xfer hfo hw hm fun hc => ?_
    subst hc
    obtain ⟨-, -, -, hread⟩ := h.latch
    exact hread ((State.idle_eq_false s).2 hp) (microAt_readData hm).1 (microAt_readData hm).2
  | lenCheck => exact hf.traceInv_lenCheck hfo hw hm
  | clearPolls =>
    exact ⟨w, hw, (hfo.next (t := { s with pollcnt := 0 }) hm (by simp) (by simp) rfl rfl rfl rfl).goTo⟩
  | pollTest back => exact hf.traceInv_pollTest hfo hw hm
  | respond =>
    obtain ⟨hr, hrest⟩ := hfo.respond_ends hf hm
    exact State.traceInv_of_events hw rfl hr hrest

/-- A request accepted at rest begins an operation for the reader too; another is no event. -/
theorem State.traceInv_accept {s : State} (h : s.Inv) (ht : s.traceInv) (r : Request) : (s.accept r).traceInv := by
  by_cases hp : s.phase = .idle
  · obtain ⟨w, hw, ha⟩ := ht
    have hcs := h.at_rest hp
    have hrun : w.running = false := by simpa [State.idle, hp] using ha.running
    rw [State.accept_idle hp]
    refine State.traceInv_of_events (v := { Watch.rest with running := true }) hw rfl ?_
      (Watch.Follows.goTo ⟨rfl, hcs.symm, rfl, by simp [hcs], fun hq => ?_, by simp [Watch.rest], rfl⟩)
    · rw [Watch.readAll_one, Watch.read, if_neg (by simp [hrun, ha.resetting])]
    · cases hop : r.op <;> simp [armedAt, hop] at hq
  · rw [State.accept_running hp]
    exact ht

/-- The reader takes the reset marker and the line going high as the block at rest. -/
theorem State.traceInv_resetInput {s : State} (ht : s.traceInv) : s.resetInput.traceInv := by
  obtain ⟨w, hw, -⟩ := ht
  exact State.traceInv_of_events hw rfl (v := Watch.rest) rfl
    (Watch.agrees_rest rfl rfl)

/-- A step that leaves the block and the bytes the chip has received alone keeps the rules. -/
theorem State.traceInv_congr {s t : State} (ht : s.traceInv) (htrace : t.trace = s.trace)
    (hop : t.op = s.op) (hphase : t.phase = s.phase) (hseq : t.seq = s.seq) (hcs : t.cs = s.cs)
    (herr : t.err = s.err) (hrx : t.chip.rx = s.chip.rx) : t.traceInv := by
  obtain ⟨w, hw, ha⟩ := ht
  have hi : t.idle = s.idle := by simp [State.idle, hphase]
  exact ⟨w, htrace ▸ hw,
    { running := by rw [hi, ha.running]
      level := by rw [hcs, ha.level]
      broken := by rw [hi, herr, ha.broken]
      sent := by rw [hcs, hrx]; exact ha.sent
      armed := by rw [hi, hop, hseq]; exact ha.armed
      owes := by rw [hi, hop, hseq]; exact ha.owes
      resetting := ha.resetting }⟩

/-- Settles O37, by cases on what a step can be. -/
theorem stepKeepsTheTraceRules : Obligations.StepKeepsTheTraceRules := by
  intro s t h ht hstep
  have hin : ∀ host async, (s.withInputs host async).traceInv := fun _ _ =>
    State.traceInv_congr ht rfl rfl rfl rfl rfl rfl rfl
  cases stepCase_of_step hstep with
  | waits host async => exact hin host async
  | accepts host async r => exact State.traceInv_accept (h.withInputs host async) (hin host async) r
  | runs async m hp hm => exact State.traceInv_run (h.withInputs s.host async) (hin s.host async) hp hm
  | completes async => exact State.traceInv_congr ht rfl rfl rfl rfl rfl rfl (by simp)
  | resets rest _ => exact State.traceInv_resetInput (hin s.host rest)

end Sys2Proof.Machine
end

section
/-! PROOFS. Requests: what decodes and is accepted, and what changes nothing (R40, R42, R106, R107); delays
(R33); the outside events (log 8). -/

namespace Sys2Proof.Machine

open Config

/-! ### Encoding -/

/-- The three fields of a request word put together are the word (R106). -/
theorem requestWord_of_fields (p : Params) (w : Nat) :
    requestWord p (w / 2 ^ (p.hostAddrWidth + p.lenWidth)) (w / 2 ^ p.lenWidth % 2 ^ p.hostAddrWidth)
      (w % 2 ^ p.lenWidth) = w := by
  rw [requestWord, Nat.add_comm p.hostAddrWidth, Nat.pow_add, ← Nat.div_div_eq_div_mul, Nat.div_add_mod',
    Nat.div_add_mod']

/-- The fields the decoder cuts from a word fit the port. -/
theorem fieldsFit_of_word (p : Params) (w : Nat) :
    fieldsFit p (w / 2 ^ p.lenWidth % 2 ^ p.hostAddrWidth) (w % 2 ^ p.lenWidth) = true := by
  simp [fieldsFit, Nat.mod_lt _ (Nat.two_pow_pos _)]

/-- Settles O3: the decoder's fields fit, and put together again they are the word. -/
theorem encodeOfDecodeIsTheRequest : Obligations.EncodeOfDecodeIsTheRequest := by
  intro p w i h
  have hfit := fieldsFit_of_word p w.word
  have hword := requestWord_of_fields p w.word
  rcases decodeOp_ok h with ⟨hc, rfl⟩ | ⟨hc, rfl⟩ | ⟨hc, rfl⟩ | ⟨hc, hlen, rfl⟩ | ⟨hc, rfl⟩ <;>
    rw [hc] at hword ⊢
  case inr.inr.inr.inl => exact ⟨by simp [WellFormed, hfit, hlen], by simp [encode, hword]⟩
  all_goals exact ⟨hfit, by simp [encode, hword]⟩

/-! ### Acceptance -/

/-- A request whose length fits the port is taken as R40 says. -/
theorem State.tookRequest_accept {s : State} {r : Request} (hp : s.phase = .idle)
    (hlen : r.len < 2 ^ s.params.lenWidth) :
    s.tookRequest (s.accept r) r.op r.addr r.len r.payload (acceptPage s.params r s.pagebuf) := by
  rw [State.accept_idle hp]
  exact ⟨rfl, rfl, Nat.mod_eq_of_lt hlen, rfl, rfl, rfl, by simp, rfl, rfl, rfl, rfl, rfl, rfl, rfl,
    rfl, rfl, rfl, rfl, rfl, rfl⟩

/-- Only a program request writes PAGEBUF (R40). -/
theorem acceptPage_other {p : Params} {r : Request} (h : r.op ≠ .pageProgram) (old : List Byte) :
    acceptPage p r old = old := by
  simp [acceptPage, h]

/-- A program request of one Page writes its payload, one of another length nothing (R24). -/
theorem acceptPage_program {p : Params} {addr len : Nat} {payload : List Byte} (hfit : len < 2 ^ p.lenWidth)
    (hlen : payload.length = len) (old : List Byte) :
    acceptPage p ⟨.pageProgram, addr, len, payload⟩ old = if len = 256 then payload else old := by
  simp [acceptPage, portLen, Nat.mod_eq_of_lt hfit, hlen]

theorem len_lt_of_fieldsFit {p : Params} {addr len : Nat} (h : fieldsFit p addr len = true) :
    len < 2 ^ p.lenWidth :=
  of_decide_eq_true (Bool.and_eq_true_iff.1 h).2

/-- Settles O9: each operation's exec is the acceptance of its request. -/
theorem idleBlockAcceptsEveryRequest : Obligations.IdleBlockAcceptsEveryRequest := by
  intro s addr len payload hp
  have take : ∀ op, op ≠ .pageProgram → fieldsFit s.params addr len = true →
      s.tookRequest (s.accept ⟨op, addr, len, []⟩) op addr len [] s.pagebuf := fun op hop hfit => by
    have ht := State.tookRequest_accept (r := ⟨op, addr, len, []⟩) hp (len_lt_of_fieldsFit hfit)
    rwa [acceptPage_other hop] at ht
  refine ⟨fun h => ⟨_, rfl, take _ (by decide) h⟩, fun h => ⟨_, rfl, take _ (by decide) h⟩,
    fun h => ⟨_, rfl, take _ (by decide) h⟩, fun h => ⟨_, rfl, ?_⟩, fun h => ⟨_, rfl, take _ (by decide) h⟩⟩
  simp only [WellFormed, Bool.and_eq_true, decide_eq_true_eq] at h
  obtain ⟨hfit, hlen⟩ := h
  have ht := State.tookRequest_accept (r := ⟨.pageProgram, addr, len, payload⟩) hp (len_lt_of_fieldsFit hfit)
  rwa [acceptPage_program (len_lt_of_fieldsFit hfit) hlen] at ht

/-! ### Outside events and requests out of turn -/

theorem step_present {s : State} {w : PortWord} {rest : List Timed} (h : s.async = ⟨0, .present w⟩ :: rest) :
    step s = outsideStep (.present w) { s with async := rest } := by
  simp only [step, stepMachine, h]

/-- A presented word that decodes is run. -/
theorem step_present_ok {s : State} {w : PortWord} {rest : List Timed} {i : Instr}
    (h : s.async = ⟨0, .present w⟩ :: rest) (hi : decode s.params (.port w) = .ok i) :
    step s = exec i { s with async := rest } := by
  rw [step_present h]
  simp only [outsideStep, hi]

/-- A presented word that does not decode changes nothing. -/
theorem step_present_error {s : State} {w : PortWord} {rest : List Timed} {e : DecodeError}
    (h : s.async = ⟨0, .present w⟩ :: rest) (hi : decode s.params (.port w) = .error e) :
    step s = .next { s with async := rest } := by
  rw [step_present h]
  simp only [outsideStep, hi]

/-- Settles O45, by the two outside events it names. -/
theorem outsideEventsActBetweenSteps : Obligations.OutsideEventsActBetweenSteps :=
  ⟨fun _ _ _ _ h hi => step_present_ok h hi, fun s rest h => by simp only [step, stepMachine, h, outsideStep]⟩

/-- At rest the host's word that decodes is run. -/
theorem idleStep_ok {s : State} {w : PortWord} {rest : List PortWord} {i : Instr} (h : s.host = w :: rest)
    (hi : decode s.params (.port w) = .ok i) : idleStep s = exec i { s with host := rest } := by
  simp only [idleStep, h, hi]

/-- At rest the host takes a word back that does not decode (log 8). -/
theorem idleStep_error {s : State} {w : PortWord} {rest : List PortWord} {e : DecodeError} (h : s.host = w :: rest)
    (hi : decode s.params (.port w) = .error e) : idleStep s = .next { s with host := rest } := by
  simp only [idleStep, h, hi]

/-- With no outside event due a step is one of the block (log 8). -/
theorem step_noneDue {s s' : State} (h : s.noneDue s') : step s = blockStep s' := by
  rcases h with ⟨ha, rfl⟩ | ⟨n, o, rest, ha, rfl⟩
  · exact step_block ha
  · simp only [step, stepMachine, ha]

/-- Only the list of outside events tells the two states apart. -/
theorem State.noneDue_eq {s s' : State} (h : s.noneDue s') : s' = { s with async := s'.async } := by
  rcases h with ⟨-, rfl⟩ | ⟨n, o, rest, -, rfl⟩ <;> rfl

/-- Settles O7: with nothing due the Idle block runs the host's word. -/
theorem stepRunsThePresentedRequest : Obligations.StepRunsThePresentedRequest := by
  intro s s' w rest i hd hp hh hi
  rw [step_noneDue hd, State.noneDue_eq hd, blockStep_idle (by exact hp), idleStep_ok (by exact hh) (by exact hi)]

/-- The three reserved codes (R107). -/
theorem decodeOp_reserved {code : Nat} (h : code ∈ [5, 6, 7]) (addr len : Nat) (payload : List Byte) :
    decodeOp code addr len payload = .error (.reservedOp code) := by
  simp only [List.mem_cons, List.not_mem_nil, or_false] at h
  rcases h with rfl | rfl | rfl <;> rfl

/-- Settles O10: a running block leaves a request alone, and a reserved code decodes to nothing. -/
theorem requestsOutOfTurnAreNotAccepted : Obligations.RequestsOutOfTurnAreNotAccepted := by
  refine ⟨fun s addr len payload hp => ?_, fun s w rest ha hp => ?_, fun s w rest hc => ?_⟩
  · have keep : ∀ r, (.next (s.accept r) : Result) = .next s := fun r => by rw [State.accept_running hp]
    exact ⟨keep _, keep _, keep _, keep _, keep _⟩
  · cases hi : decode s.params (.port w) with
    | error e => exact step_present_error ha hi
    | ok i =>
      obtain ⟨r, hr⟩ := exec_of_decode_port hi
      rw [step_present_ok ha hi, hr, State.accept_running (by exact hp)]
  · have hd : decode s.params (.port w) = .error (.reservedOp _) := decodeOp_reserved hc _ _ _
    exact ⟨⟨_, hd⟩, fun ha => step_present_error ha hd, fun more ha hp hh => by
      rw [step_block ha, blockStep_idle hp, idleStep_error hh hd]⟩

/-! ### Guard delays -/

/-- With no outside event a step at a delay is one cycle of it. -/
theorem step_delay {s : State} (ha : s.async = []) (hp : s.phase ≠ .idle) (hm : microAt s.op s.seq = some .delay) :
    step s = .next s.delayCycle := by
  rw [step_running ha hp, microStep_delay hm]

theorem State.run_countdown {s : State} (ha : s.async = []) (hp : s.phase ≠ .idle)
    (hm : microAt s.op s.seq = some .delay) {k : Nat} (hk : k ≤ s.gcnt) :
    s.run k = some { s with gcnt := s.gcnt - k } := by
  induction k with
  | zero => rfl
  | succ k ih =>
    have hg : s.gcnt - k = s.gcnt - (k + 1) + 1 := by omega
    rw [State.run_add, ih (by omega), Option.bind_some, State.run,
      step_delay (s := { s with gcnt := s.gcnt - k }) ha hp hm, State.delayCycle_succ hg]
    rfl

/-- Settles O25: the countdown by induction on the cycles, then the cycle at 0. -/
theorem guardDelayCountsItsCycles : Obligations.GuardDelayCountsItsCycles := by
  refine ⟨fun s q hq => by simp [hq], fun s k ha hp hm hk => State.run_countdown ha hp hm hk, fun s ha hp hm => ?_⟩
  refine ⟨(({ s with gcnt := 0 } : State).emit (.delay s.params.guardCycles)).advance, ?_, rfl, rfl, rfl, rfl,
    rfl, rfl, rfl, rfl⟩
  rw [State.run_add, State.run_countdown ha hp hm le_rfl, Nat.sub_self, Option.bind_some, State.run,
    step_delay (s := { s with gcnt := 0 }) ha hp hm, State.delayCycle_zero rfl]
  rfl

/-! ### Reset -/

/-- Settles O35: the state after reset is at rest with nothing pending. -/
theorem resetMeetsTheInvariant : Obligations.ResetMeetsTheInvariant := by
  refine ⟨.of_idle rfl ?_ rfl rfl blankPage_length (Nat.two_pow_pos _) rfl rfl ⟨reset_flash_wf, trivial⟩,
    Watch.rest, rfl, Watch.agrees_rest rfl rfl⟩
  exact ⟨by decide, by decide, Nat.le_of_lt_succ chipCapacity.isLt⟩

end Sys2Proof.Machine
end

section
/-! PROOFS. What no step does: it never stops a state of the invariant, writes no parameter and no latch of
a running operation, and STATUS and the line have one writer each; and every operation comes to its response. -/

namespace Sys2Proof.Machine

open Config

/-! ### Every step answers -/

/-- In an operation of the invariant there is a micro-operation to run (R26). -/
theorem State.Inv.microAt_some {s : State} (h : s.Inv) (hp : s.phase ≠ .idle) :
    ∃ m, microAt s.op s.seq = some m := by
  have hc := h.control
  rw [State.controlInv, if_neg (by simpa using hp)] at hc
  exact Option.isSome_iff_exists.1 hc.1

theorem idleStep_answers (s : State) : ∃ t, idleStep s = .next t := by
  cases hh : s.host with
  | nil => exact ⟨s, by simp only [idleStep, hh]⟩
  | cons w rest =>
    cases hi : decode s.params (.port w) with
    | error e => exact ⟨_, idleStep_error hh hi⟩
    | ok i =>
      obtain ⟨r, hr⟩ := exec_of_decode_port hi
      exact ⟨_, (idleStep_ok hh hi).trans (hr _)⟩

theorem State.Inv.blockStep_answers {s : State} (h : s.Inv) : ∃ t, blockStep s = .next t := by
  by_cases hp : s.phase = .idle
  · rw [blockStep_idle hp]
    exact idleStep_answers s
  · obtain ⟨m, hm⟩ := h.microAt_some hp
    exact ⟨_, (blockStep_running hp).trans (microStep_run hm)⟩

theorem outsideStep_answers (o : Outside) (s : State) : ∃ t, outsideStep o s = .next t := by
  cases o with
  | reset => exact ⟨_, rfl⟩
  | chipDone => exact ⟨_, rfl⟩
  | present w =>
    cases hi : decode s.params (.port w) with
    | error e => exact ⟨s, by simp only [outsideStep, hi]⟩
    | ok i =>
      obtain ⟨r, hr⟩ := exec_of_decode_port hi
      exact ⟨s.accept r, by simp only [outsideStep, hi, hr]⟩

/-- Settles O38: an outside event and the block at rest always answer, and SEQ is inside the micro-program. -/
theorem everyStepAnswersANextState : Obligations.EveryStepAnswersANextState := by
  intro s h
  unfold step stepMachine
  split
  · exact h.blockStep_answers
  · exact outsideStep_answers _ _
  · exact (h.withInputs s.host _).blockStep_answers

/-! ### What a micro-operation leaves alone -/

/-- What micro-operation `m` leaves alone, whatever the position. -/
structure MicroOp.Frame (m : MicroOp) (s t : State) : Prop where
  params : t.params = s.params := by simp
  latches : s.sameLatches t := by simp [State.sameLatches]
  async : t.async = s.async := by simp
  status : m ≠ .xfer .status → t.status = s.status := by simp
  cs : m ≠ .csLow → m ≠ .csHigh → t.cs = s.cs := by simp
  trace : ∃ more, t.trace = s.trace ++ more

theorem MicroOp.frame_xfer (c : Call) (s : State) : (MicroOp.xfer c).Frame s ((MicroOp.xfer c).run s) := by
  rcases MicroOp.run_xfer_cases c s with hx | hx <;> rw [hx]
  · exact { status := fun hc => c.keep_status _ _ (by simpa using hc)
            trace := ⟨[.xfer (c.sends s) (s.received (c.sends s))], by simp⟩ }
  · exact { trace := ⟨[.xferFault (c.sends s)], by simp⟩ }

/-- Every micro-operation keeps its frame. -/
theorem MicroOp.frame_run (m : MicroOp) (s : State) : m.Frame s (m.run s) := by
  cases m with
  | xfer c => exact frame_xfer c s
  | delay =>
    simp only [MicroOp.run, State.delayCycle]
    split
    · exact { trace := ⟨[.delay s.params.guardCycles], by simp⟩ }
    · exact { trace := ⟨[], by simp⟩ }
  | csLow =>
    simp only [MicroOp.run]
    exact { trace := ⟨[.cs .low], by simp⟩ }
  | csHigh =>
    simp only [MicroOp.run]
    exact { trace := ⟨[.cs .high], by simp⟩ }
  | lenCheck =>
    simp only [MicroOp.run, State.lenCheck]
    split <;> exact { trace := ⟨[], by simp⟩ }
  | clearPolls =>
    simp only [MicroOp.run, State.clearPolls]
    exact { trace := ⟨[], by simp⟩ }
  | pollTest back =>
    simp only [MicroOp.run, State.pollTest]
    split_ifs <;> exact { trace := ⟨[], by simp⟩ }
  | respond =>
    simp only [MicroOp.run]
    exact { trace := ⟨[.rsp s.response], by simp⟩ }

/-- Acceptance writes no parameter and appends at most its request. -/
theorem State.accept_grows (r : Request) (s : State) :
    (s.accept r).params = s.params ∧ ∃ more, (s.accept r).trace = s.trace ++ more := by
  by_cases hp : s.phase = .idle
  · rw [State.accept_idle hp]
    exact ⟨rfl, [.req r], rfl⟩
  · rw [State.accept_running hp]
    exact ⟨rfl, [], by simp⟩

/-- Settles O40, by cases on what a step can be. -/
theorem parametersStayAndTheTraceGrows : Obligations.ParametersStayAndTheTraceGrows := by
  intro s t h
  cases stepCase_of_step h with
  | waits host async => exact ⟨rfl, [], by simp [State.withInputs]⟩
  | accepts host async r => exact State.accept_grows r (s.withInputs host async)
  | runs async m hp hm =>
    have hf := m.frame_run (s.withInputs s.host async)
    exact ⟨hf.params, hf.trace⟩
  | completes async => exact ⟨rfl, [], by simp [State.withInputs]⟩
  | resets rest _ => exact ⟨rfl, _, rfl⟩

/-- While an operation runs and no reset is due, a step leaves alone what its micro-operation does. -/
theorem frame_of_running_step {s t : State} (hp : s.phase ≠ .idle) (hr : ∀ rest, s.async ≠ ⟨0, .reset⟩ :: rest)
    (h : step s = .next t) :
    s.sameLatches t ∧ (microAt s.op s.seq ≠ some (.xfer .status) → t.status = s.status) ∧
      (microAt s.op s.seq ≠ some .csLow → microAt s.op s.seq ≠ some .csHigh → t.cs = s.cs) := by
  have same : s.sameLatches s := ⟨rfl, rfl, rfl, rfl⟩
  cases stepCase_of_step h with
  | waits host async => exact ⟨same, fun _ => rfl, fun _ _ => rfl⟩
  | accepts host async r =>
    rw [State.accept_running (by exact hp)]
    exact ⟨same, fun _ => rfl, fun _ _ => rfl⟩
  | runs async m _ hm =>
    have hf := m.frame_run (s.withInputs s.host async)
    rw [hm]
    exact ⟨hf.latches, fun hs => hf.status (by simpa using hs),
      fun hl hh => hf.cs (by simpa using hl) (by simpa using hh)⟩
  | completes async => exact ⟨same, fun _ => rfl, fun _ _ => rfl⟩
  | resets rest hd => exact absurd hd (hr rest)

/-- Settles O41, by the frame of a step of a running operation. -/
theorem latchesAreConstantWhileRunning : Obligations.LatchesAreConstantWhileRunning :=
  fun _ _ hp hr h => (frame_of_running_step hp hr h).1

/-- Settles O42, by the same frame. -/
theorem statusAndSelectHaveOneWriterEach : Obligations.StatusAndSelectHaveOneWriterEach :=
  fun _ _ hp hr h => (frame_of_running_step hp hr h).2

/-! ### Every operation comes to its response -/

/-- Poll iterations the bound still allows, before, in and after the polls (R172). -/
def State.roundsLeft (extra : Nat) (s : State) : Nat :=
  if pollsDone s.op s.seq then 0 else if inPolls s.op s.seq then extra - s.pollcnt else extra

/-- A measure that every micro-operation but a delay's countdown and the response lowers: the longest program
has 26 positions, the error exit 4, and each poll iteration goes through one program at most. -/
def State.remaining (extra : Nat) (s : State) : Nat :=
  match s.seq with
  | .exit n => 4 - n
  | .main n => 5 + (26 - n) + 26 * s.roundsLeft extra

section
variable {op : Op} {q : Seq} {m : MicroOp} (h : microAt op q = some m)
include h

theorem pollsDone_of_running (hr : m ≠ .respond) : pollsDone op q = false :=
  of_table (P := fun q m => m ≠ .respond → pollsDone op q = false) (by cases op <;> decide) h hr

/-- From inside the polls control comes to the polls or past them (R171). -/
theorem inPolls_or_pollsDone_next (hr : m ≠ .respond) (hq : inPolls op q = true) :
    inPolls op q.next = true ∨ pollsDone op q.next = true :=
  of_table (P := fun q m => m ≠ .respond → inPolls op q = true →
    inPolls op q.next = true ∨ pollsDone op q.next = true) (by cases op <;> decide) h hr hq
end

/-- POLLCNT is cleared before the polls (R171). -/
theorem inPolls_clearPolls {op : Op} {q : Seq} (h : microAt op q = some .clearPolls) : inPolls op q = false :=
  of_table (P := fun q m => m = .clearPolls → inPolls op q = false) (by cases op <;> decide) h rfl

section
variable {s t : State} {m : MicroOp} {extra : Nat} (hm : microAt s.op s.seq = some m) (hr : m ≠ .respond)
  (hop : t.op = s.op)
include hm hr hop

/-- The next position has no more poll iterations left. -/
theorem State.roundsLeft_next (hq : t.seq = s.seq.next)
    (hk : m ≠ .clearPolls → (∀ back, m ≠ .pollTest back) → t.pollcnt = s.pollcnt) :
    t.roundsLeft extra ≤ s.roundsLeft extra := by
  simp only [State.roundsLeft, hop, hq, pollsDone_of_running hm hr, Bool.false_eq_true, if_false]
  cases hd : pollsDone s.op s.seq.next with
  | true => simp
  | false =>
    cases hn : inPolls s.op s.seq.next with
    | false =>
      have : inPolls s.op s.seq = false := by
        by_contra hs
        simpa [hn, hd] using inPolls_or_pollsDone_next hm hr (by simpa using hs)
      simp [this]
    | true =>
      rcases inPolls_next hm hn with rfl | ⟨hs, hnt⟩
      · simp [inPolls_clearPolls hm]
      · have hc : m ≠ .clearPolls := fun hc => by
          subst hc
          simp [inPolls_clearPolls hm] at hs
        simp [hs, hk hc hnt]

/-- The next position is nearer to the response. -/
theorem State.remaining_next (hq : t.seq = s.seq.next)
    (hk : m ≠ .clearPolls → (∀ back, m ≠ .pollTest back) → t.pollcnt = s.pollcnt) :
    t.remaining extra < s.remaining extra := by
  have hle := State.roundsLeft_next (extra := extra) hm hr hop hq hk
  have hpos := mem_positions hm
  cases hs : s.seq with
  | exit n =>
    have hn : n < 4 := by simpa [positions, exitProgram, hs] using hpos
    simp only [State.remaining, hq, hs, Seq.next]
    omega
  | main n =>
    have hn : n < 26 := by
      have hlen : (program s.op).length ≤ 26 := by cases s.op <;> decide
      have : n < (program s.op).length := by simpa [positions, hs] using hpos
      omega
    simp only [State.remaining, hq, hs, Seq.next]
    omega
end

/-- The error exit is nearer to the response than any position of the micro-program. -/
theorem State.remaining_exit {s t : State} {extra n k : Nat} (hs : s.seq = .main n) (ht : t.seq = .exit k) :
    t.remaining extra < s.remaining extra := by
  simp only [State.remaining, hs, ht]
  omega

theorem State.remaining_xfer {s : State} {c : Call} {extra : Nat} (hm : microAt s.op s.seq = some (.xfer c)) :
    ((MicroOp.xfer c).run s).phase ≠ .idle ∧ ((MicroOp.xfer c).run s).remaining extra < s.remaining extra := by
  obtain ⟨n, hn⟩ := main_of_microAt hm (by simp) (by simp) (by simp)
  rcases MicroOp.run_xfer_cases c s with hx | hx <;> rw [hx]
  · refine ⟨by simp, ?_⟩
    by_cases hskip : c = .readFrame ∧ s.len = 0
    · obtain ⟨rfl, hl⟩ := hskip
      obtain ⟨hop, hq⟩ := microAt_readFrame hm
      simp [State.remaining, State.roundsLeft, Call.target, hl, hop, hq, Seq.next, pollsDone, inPolls]
    · exact State.remaining_next hm (by simp) (by simp) (by simp [Call.target, hskip]) (by simp)
  · exact ⟨by simp, State.remaining_exit hn rfl⟩

theorem State.remaining_pollTest {s : State} {back extra : Nat} (hb : s.params.maxPolls = .upTo extra)
    (hm : microAt s.op s.seq = some (.pollTest back)) :
    (s.pollTest back).phase ≠ .idle ∧ (s.pollTest back).remaining extra < s.remaining extra := by
  obtain ⟨n, hn⟩ := main_of_microAt hm (by simp) (by simp) (by simp)
  cases hbusy : busy s.status with
  | false =>
    rw [State.pollTest_ready hbusy]
    exact ⟨by simp, State.remaining_next hm (by simp) rfl rfl (by simp)⟩
  | true =>
    cases hr : s.params.maxPolls.reached (s.pollcnt + 1) with
    | true =>
      rw [State.pollTest_timeout hbusy hr]
      exact ⟨by simp, State.remaining_exit hn rfl⟩
    | false =>
      rw [State.pollTest_again hbusy hr]
      refine ⟨by simp, ?_⟩
      have hlt : s.pollcnt < extra := by simpa [hb, PollBound.reached] using hr
      rcases microAt_pollTest hm with ⟨hop, hq, rfl⟩ | ⟨hop, hq, rfl⟩ <;>
        simp [State.remaining, State.roundsLeft, hop, hq, pollsDone, inPolls] <;> omega

/-- Every micro-operation but a delay and the response brings the response nearer. -/
theorem State.remaining_run {s : State} {m : MicroOp} {extra : Nat} (hb : s.params.maxPolls = .upTo extra)
    (hm : microAt s.op s.seq = some m) (hd : m ≠ .delay) (hr : m ≠ .respond) :
    (m.run s).phase ≠ .idle ∧ (m.run s).remaining extra < s.remaining extra := by
  cases m with
  | delay => exact absurd rfl hd
  | respond => exact absurd rfl hr
  | csLow => exact ⟨phaseAt_ne_idle _ _, State.remaining_next hm hr rfl rfl (fun _ _ => rfl)⟩
  | csHigh => exact ⟨phaseAt_ne_idle _ _, State.remaining_next hm hr rfl rfl (fun _ _ => rfl)⟩
  | xfer c => exact State.remaining_xfer hm
  | clearPolls => exact ⟨phaseAt_ne_idle _ _, State.remaining_next hm hr rfl rfl (by simp)⟩
  | pollTest back => exact State.remaining_pollTest hb hm
  | lenCheck =>
    obtain ⟨n, hn⟩ := main_of_microAt hm (by simp) (by simp) (by simp)
    by_cases hl : s.len = pageSize
    · rw [MicroOp.run, State.lenCheck_page hl]
      exact ⟨by simp, State.remaining_next hm hr rfl rfl (fun _ _ => rfl)⟩
    · rw [MicroOp.run, State.lenCheck_other hl]
      exact ⟨by simp, State.remaining_exit hn rfl⟩

/-- The invariant holds along every run. -/
theorem State.Inv.leadsTo {s t : State} (h : s.Inv) (hl : s.leadsTo t) : t.Inv := by
  obtain ⟨k, hk⟩ := hl
  induction k generalizing s with
  | zero =>
    cases hk
    exact h
  | succ k ih =>
    rw [State.run] at hk
    split at hk
    · next u hu => exact ih (stepKeepsTheInvariant s u h hu) hk
    all_goals cases hk

/-- From an operation in progress whose response is not due, a run leads nearer to the response. -/
theorem State.Inv.comes_nearer {s : State} {m : MicroOp} {extra : Nat} (h : s.Inv) (ha : s.async = [])
    (hp : s.phase ≠ .idle) (hb : s.params.maxPolls = .upTo extra) (hm : microAt s.op s.seq = some m)
    (hr : m ≠ .respond) :
    ∃ t, s.leadsTo t ∧ t.Inv ∧ t.async = [] ∧ t.phase ≠ .idle ∧ t.params.maxPolls = .upTo extra ∧
      t.remaining extra < s.remaining extra := by
  by_cases hd : m = .delay
  · subst hd
    have hl := State.leadsTo_delayed ha hp hm
    exact ⟨_, hl, h.leadsTo hl, ha, phaseAt_ne_idle _ _, hb, State.remaining_next hm hr rfl rfl (fun _ _ => rfl)⟩
  · obtain ⟨hphase, hlt⟩ := State.remaining_run hb hm hd hr
    have hf := m.frame_run s
    exact ⟨m.run s, State.leadsTo_one (by rw [step_running ha hp, microStep_run hm]), h.run hp hm,
      hf.async.trans ha, hphase, hf.params ▸ hb, hlt⟩

/-- Settles O39, by induction on the measure `remaining`. -/
theorem everyOperationGetsItsResponse : Obligations.EveryOperationGetsItsResponse := by
  intro s extra h ha hp hb
  induction hn : s.remaining extra using Nat.strong_induction_on generalizing s with
  | _ n ih =>
    subst hn
    obtain ⟨m, hm⟩ := h.microAt_some hp
    by_cases hr : m = .respond
    · subst hr
      have hf := h.fits hp (h.gcnt_zero (.inr (by simp [hm])))
      exact ⟨s.respond, s.response, State.leadsTo_respond ha hp hm, rfl, hf.level.trans (levelAt_respond hm),
        rfl, rfl⟩
    · obtain ⟨t, hl, hinv, hta, htp, htb, hlt⟩ := h.comes_nearer ha hp hb hm hr
      obtain ⟨u, r, hu, hrest⟩ := ih _ hlt t hinv hta htp htb rfl
      exact ⟨u, r, State.leadsTo_trans hl hu, hrest⟩

end Sys2Proof.Machine
end

section
/-! PROOFS. The chip under its contract (spec/20_memory.md R70 to R77): what a whole transaction of each of
the five formats does, what the chip returns in it, what its completion does to every byte, and what a failed
operation leaves of it. -/

namespace Sys2Proof.Machine

open Config

/-! ### What is inside the contract -/

@[simp] theorem Chip.beginBracket_cbusy (c : Chip) : c.beginBracket.cbusy = c.cbusy := rfl

/-- A status read is inside the contract whether or not the chip is busy. -/
theorem Chip.breaks_status (p : Params) (c : Chip) (d : List Byte) :
    c.beginBracket.breaks p (opReadStatus :: d) = false := by
  have hop : isOpcode opReadStatus = true ∧ (opReadStatus == opRead) = false := by decide
  simp [Chip.breaks, hop]

/-- A command that does not read is inside the contract while the chip is not busy. -/
theorem Chip.breaks_command {p : Params} {c : Chip} {op : Byte} (hb : c.cbusy = false)
    (hop : op ∈ [opWriteEnable, opSectorErase, opPageProgram]) (d : List Byte) :
    c.beginBracket.breaks p (op :: d) = false := by
  have hknown : isOpcode op = true ∧ (op == opRead) = false := by revert op; decide
  simp [Chip.breaks, hb, hknown]

/-- The address in a frame is the one it was made from (R157). -/
theorem decode3_addr3_of_lt {a : Nat} (ha : a < 2 ^ 24) : decode3 (addr3 a) = a := by
  rw [decode3_addr3]
  exact Nat.mod_eq_of_lt ha

theorem Chip.headAddr_frame (op : Byte) {a : Nat} (ha : a < 2 ^ 24) (d : List Byte) :
    Chip.headAddr (op :: addr3 a ++ d) = a := decode3_addr3_of_lt ha

/-- A read is inside the contract while the chip is not busy and its data phase is within capacity. -/
theorem Chip.breaks_read {p : Params} {c : Chip} {a : Nat} {d : List Byte} (hb : c.cbusy = false)
    (ha : a < 2 ^ 24) (hlt : a < p.capacity) (hd : a + d.length ≤ p.capacity) :
    c.beginBracket.breaks p (opRead :: addr3 a ++ d) = false := by
  have hlen : (opRead :: addr3 a ++ d).length = 4 + d.length := by simp [addr3]; omega
  have hop : isOpcode opRead = true := by decide
  have hhead := Chip.headAddr_frame opRead ha d
  rw [List.cons_append] at hlen hhead ⊢
  simp [Chip.breaks, hb, hop, hlen, hhead, -List.length_cons, -List.length_append, hlt, hd]

/-! ### Whole transactions -/

theorem Chip.receive_kept {p : Params} {c : Chip} {tx : List Byte} (h : c.breaks p (c.rx ++ tx) = false) :
    c.receive p tx = { c with rx := c.rx ++ tx } := by
  simp [Chip.receive, h]

/-- The end of a bracket that no fault has cut. -/
theorem Chip.endBracket_uncut {p : Params} {c : Chip} (hc : c.conforms = true) (hcut : c.cut = false) :
    c.endBracket p = { c.finish p with rx := [], cut := false } := by
  simp [Chip.endBracket, hc, hcut]

/-- The end of a bracket that a fault has cut: its effect is already there. -/
theorem Chip.endBracket_faulted {p : Params} {c : Chip} (hc : c.conforms = true) (hcut : c.cut = true) :
    c.endBracket p = { c with rx := [], cut := false } := by
  simp [Chip.endBracket, hc, hcut]

/-- The chip at the end of a transaction of the bytes `sent`. -/
def Chip.afterSending (p : Params) (sent : List Byte) (c : Chip) : Chip :=
  { Chip.finish p { c with rx := sent, cut := false } with rx := [], cut := false }

/-- A transaction sent in one call. -/
theorem Chip.bracket_one_call {p : Params} {c : Chip} {tx : List Byte} (hc : c.conforms = true)
    (h : c.beginBracket.breaks p tx = false) :
    (c.beginBracket.receive p tx).endBracket p = c.afterSending p tx := by
  rw [Chip.receive_kept h]
  exact Chip.endBracket_uncut hc rfl

/-- A transaction sent in two calls, a frame and its data phase. -/
theorem Chip.bracket_two_calls {p : Params} {c : Chip} {tx data : List Byte} (hc : c.conforms = true)
    (h : c.beginBracket.breaks p tx = false) (h' : c.beginBracket.breaks p (tx ++ data) = false) :
    ((c.beginBracket.receive p tx).receive p data).endBracket p = c.afterSending p (tx ++ data) := by
  rw [Chip.receive_kept h, Chip.receive_kept (tx := data) (by exact h')]
  exact Chip.endBracket_uncut hc rfl

theorem Chip.afterSending_writeEnable (p : Params) (c : Chip) :
    c.afterSending p [opWriteEnable] = { c with wel := true, rx := [], cut := false } := by
  simp [Chip.afterSending, Chip.finish]

theorem Chip.afterSending_status (p : Params) (c : Chip) (b : Byte) :
    c.afterSending p [opReadStatus, b] = { c with rx := [], cut := false } := by
  simp [Chip.afterSending, Chip.finish]

theorem Chip.afterSending_read (p : Params) (c : Chip) (a : Nat) (d : List Byte) :
    c.afterSending p (opRead :: addr3 a ++ d) = { c with rx := [], cut := false } := by
  simp [Chip.afterSending, Chip.finish, addr3]

/-- A chip as the end of an accepted destructive command leaves it: busy with that command's work. -/
def Chip.busyWith (w : Work) (c : Chip) : Chip := { c with cbusy := true, work := w, rx := [], cut := false }

section
variable {p : Params} {c : Chip} {a : Nat} (hw : c.wel = true) (hb : c.cbusy = false) (ha : a < 2 ^ 24)
include hw hb ha

theorem Chip.afterSending_erase (hal : a % p.sectorSize = 0) (hcap : a + p.sectorSize ≤ p.capacity) :
    c.afterSending p (opSectorErase :: addr3 a) = c.busyWith (.erase a) := by
  have h3 := decode3_addr3_of_lt ha
  have hop : opSectorErase ≠ opRead := by decide
  rw [addr3] at h3 ⊢
  simp [Chip.afterSending, Chip.finish, Chip.accepts, Chip.busyWith, hop, h3, hw, hb, hal, hcap]

theorem Chip.afterSending_program {d : List Byte} (hal : a % pageSize = 0) (hcap : a + pageSize ≤ p.capacity)
    (hd : d.length = pageSize) :
    c.afterSending p (opPageProgram :: addr3 a ++ d) = c.busyWith (.program a d) := by
  have h3 := decode3_addr3_of_lt ha
  have hop : opPageProgram ≠ opRead ∧ opPageProgram ≠ opSectorErase := by decide
  rw [addr3] at h3 ⊢
  simp [Chip.afterSending, Chip.finish, Chip.accepts, Chip.busyWith, hop, h3, hw, hb, hal, hcap, hd]

end

/-! ### Completion -/

theorem Chip.complete_busy {p : Params} {c : Chip} (hc : c.conforms = true) (hb : c.cbusy = true) :
    c.complete p = { c.doWork p with wel := false, cbusy := false, work := .unknown } := by
  simp [Chip.complete, hc, hb]

theorem Chip.complete_ready {p : Params} {c : Chip} (hc : c.conforms = true) (hb : c.cbusy = false) :
    c.complete p = c := by
  simp [Chip.complete, hc, hb]

@[simp] theorem Chip.doWork_conforms (p : Params) (c : Chip) : (c.doWork p).conforms = c.conforms := by
  unfold Chip.doWork; split <;> rfl

/-- A busy chip that completes has WEL and CBUSY clear, is in its contract, and its array is as the work
leaves it (R72, R73, R76). -/
theorem Chip.complete_spec (p : Params) {c : Chip} (hc : c.conforms = true) (hb : c.cbusy = true) :
    (c.complete p).wel = false ∧ (c.complete p).cbusy = false ∧ (c.complete p).conforms = true ∧
      ∀ x, (c.complete p).byteAt x = (c.doWork p).byteAt x := by
  rw [Chip.complete_busy hc hb]
  exact ⟨rfl, rfl, (Chip.doWork_conforms p c).trans hc, fun _ => rfl⟩

/-- What a byte reads as once a run of bytes was replaced. -/
theorem Chip.byteAt_put (c : Chip) (base : Nat) (bytes : List Byte) (x : Nat) :
    Chip.byteAt { c with flash := c.flash.put base bytes } x =
      if base ≤ x ∧ x < base + bytes.length then bytes.getD (x - base) 0x00#8 else c.byteAt x := by
  simp only [Chip.byteAt, Memory.get?_put]
  split
  · rw [List.getElem?_eq_getElem (by omega), List.getD_eq_getElem _ _ (by omega)]
    rfl
  · rfl

theorem Chip.doWork_erase_byteAt {p : Params} {c : Chip} {a : Nat} (hw : c.work = .erase a) (x : Nat) :
    (c.doWork p).byteAt x = if a ≤ x ∧ x < a + p.sectorSize then 0xFF#8 else c.byteAt x := by
  have hdone : c.doWork p = { c with flash := c.flash.put a (List.replicate p.sectorSize 0xFF#8) } := by
    simp only [Chip.doWork, hw]
  rw [hdone, Chip.byteAt_put, List.length_replicate]
  split
  · exact List.getD_replicate _ (by omega)
  · rfl

theorem Chip.doWork_program_byteAt {p : Params} {c : Chip} {a : Nat} {d : List Byte} (hw : c.work = .program a d)
    (x : Nat) :
    (c.doWork p).byteAt x =
      if a ≤ x ∧ x < a + d.length then c.byteAt x &&& d.getD (x - a) 0x00#8 else c.byteAt x := by
  have hdone : c.doWork p = { c with flash := c.flash.put a (c.programmed a d) } := by
    simp only [Chip.doWork, hw]
  rw [hdone, Chip.byteAt_put, Chip.programmed_length]
  split
  · rw [List.getD_eq_getElem?_getD, Chip.programmed_getElem?, List.getElem?_eq_getElem (by omega),
      List.getD_eq_getElem _ _ (by omega), Nat.add_sub_cancel' (by omega)]
    rfl
  · rfl

theorem Chip.doWork_doubtful_byteAt {p : Params} {c : Chip} {a n : Nat} (hw : c.work = .doubtful a n) (x : Nat) :
    (c.doWork p).byteAt x = if a ≤ x ∧ x < a + n then flashByte (c.fresh + 1) x else c.byteAt x := by
  simp only [Chip.doWork, hw, Chip.scramble_byteAt]

/-- The completion of doubtful work leaves every byte outside the unit as it was. -/
theorem Chip.complete_doubtful_outside (p : Params) {c : Chip} {a n x : Nat} (hc : c.conforms = true)
    (hw : c.work = .doubtful a n) (hx : x < a ∨ a + n ≤ x) : (c.complete p).byteAt x = c.byteAt x := by
  cases hb : c.cbusy with
  | false => rw [Chip.complete_ready hc hb]
  | true =>
    obtain ⟨-, -, -, hbyte⟩ := Chip.complete_spec p hc hb
    rw [hbyte, Chip.doWork_doubtful_byteAt hw, if_neg (by omega)]

/-! ### Write Enable, erase and program -/

/-- Settles O27: the whole bracket is `[06]`, and every completion clears WEL. -/
theorem writeEnableSetsTheLatch : Obligations.WriteEnableSetsTheLatch := by
  intro p c hc
  refine ⟨fun hb => ?_, fun hb => (Chip.complete_spec p hc hb).1⟩
  have hok : c.beginBracket.breaks p [opWriteEnable] = false := Chip.breaks_command hb (by decide) []
  exact (Chip.bracket_one_call hc hok).trans (Chip.afterSending_writeEnable p c)

/-- Settles O28: the bracket leaves the chip busy with the erase, whose completion writes the sector. -/
theorem eraseFillsItsSector : Obligations.EraseFillsItsSector := by
  intro p c a hc hw hb ha hal hcap c'
  have hok : c.beginBracket.breaks p (opSectorErase :: addr3 a) = false :=
    Chip.breaks_command hb (by decide) _
  have hc' : c' = c.busyWith (.erase a) :=
    (Chip.bracket_one_call hc hok).trans (Chip.afterSending_erase hw hb ha hal hcap)
  obtain ⟨hwel, hready, hconf, hbyte⟩ := Chip.complete_spec p (c := c.busyWith (.erase a)) hc rfl
  rw [hc']
  refine ⟨hc, rfl, fun _ => rfl, hwel, hready, hconf, fun x => ?_⟩
  rw [hbyte, Chip.doWork_erase_byteAt rfl]
  rfl

/-- Settles O29: the bracket leaves the chip busy with the program, whose completion clears the page's bits. -/
theorem programClearsBitsOfItsPage : Obligations.ProgramClearsBitsOfItsPage := by
  intro p c a d hc hw hb ha hal hcap hd c'
  have hok : ∀ rest, c.beginBracket.breaks p (opPageProgram :: rest) = false :=
    Chip.breaks_command hb (by decide)
  have hc' : c' = c.busyWith (.program a d) :=
    (Chip.bracket_two_calls hc (hok _) (hok _)).trans (Chip.afterSending_program hw hb ha hal hcap hd)
  obtain ⟨hwel, hready, hconf, hbyte⟩ := Chip.complete_spec p (c := c.busyWith (.program a d)) hc rfl
  have hdone : ∀ x, ((c.busyWith (.program a d)).complete p).byteAt x =
      if a ≤ x ∧ x < a + 256 then c.byteAt x &&& d.getD (x - a) 0x00#8 else c.byteAt x := fun x => by
    rw [hbyte, Chip.doWork_program_byteAt rfl, hd]
    rfl
  rw [hc']
  refine ⟨hc, rfl, fun _ => rfl, hwel, hready, hconf, fun i hi => ?_, fun x hx => ?_⟩
  · rw [hdone, if_pos (by omega), Nat.add_sub_cancel_left]
  · rw [hdone, if_neg (by omega)]

/-! ### What the chip returns -/

/-- What the chip returns in the first call of a bracket. -/
theorem Chip.reply_beginBracket (p : Params) (c : Chip) (noise : Nat → Byte) (tx : List Byte) :
    c.beginBracket.reply p noise tx = (List.range tx.length).map (fun i => c.replyAt p tx i (noise i)) := by
  simp [Chip.reply, Chip.replyAt, Chip.byteAt, Chip.beginBracket]

/-- During the frame of a read the contract gives no byte. -/
theorem Chip.replyAt_frame {p : Params} {c : Chip} {sent : List Byte} {pos : Nat} (noise : Byte)
    (hs : sent.head? = some opRead) (hpos : pos < 4) : c.replyAt p sent pos noise = noise := by
  simp [Chip.replyAt, hs, Nat.not_le.mpr hpos]

/-- After the frame of a read a chip not busy returns the array's bytes, as far as they are within capacity. -/
theorem Chip.replyAt_data {p : Params} {c : Chip} {a i : Nat} (d : List Byte) (noise : Byte)
    (hc : c.conforms = true) (hb : c.cbusy = false) (ha : a < 2 ^ 24) (hi : a + i < p.capacity) :
    c.replyAt p (opRead :: addr3 a ++ d) (4 + i) noise = c.byteAt (a + i) := by
  have hs : (opRead :: addr3 a ++ d).head? = some opRead := rfl
  simp only [Chip.replyAt, hc, hs, hb, Chip.headAddr_frame opRead ha d, Nat.add_sub_cancel_left]
  simp [hi]

/-- In a status read the second byte is the status byte, and the contract gives no other. -/
theorem Chip.replyAt_status {p : Params} {c : Chip} {sent : List Byte} (pos : Nat) (noise : Byte)
    (hc : c.conforms = true) (hs : sent.head? = some opReadStatus) :
    c.replyAt p sent pos noise = if pos = 1 then statusByte c.cbusy noise else noise := by
  have hop : opReadStatus ≠ opRead := by decide
  simp [Chip.replyAt, hc, hs, hop]

/-- Settles O30: frame and data phase stay inside the contract, so every byte of the data phase is the array's. -/
theorem readDataIsTheArray : Obligations.ReadDataIsTheArray := by
  intro p c a noise noise' tx hc hb ha hlt c'
  have hok : ∀ d : List Byte, a + d.length ≤ p.capacity →
      c.beginBracket.breaks p (opRead :: addr3 a ++ d) = false :=
    fun _ => Chip.breaks_read hb ha hlt
  have hframe : c.beginBracket.breaks p (opRead :: addr3 a) = false := hok [] hlt.le
  have hc' : c' = { c with rx := opRead :: addr3 a, cut := false } := Chip.receive_kept hframe
  refine ⟨?_, fun i hi hcap => ?_, fun hcap => ?_⟩
  · rw [Chip.reply_beginBracket]
    exact List.map_congr_left fun i hi => Chip.replyAt_frame (noise i) rfl (List.mem_range.mp hi)
  · rw [hc', Chip.reply, List.getElem?_map, List.getElem?_range hi, Option.map_some]
    exact congrArg some (Chip.replyAt_data tx (noise' i) hc hb ha hcap)
  · exact (Chip.bracket_two_calls hc hframe (hok tx hcap)).trans (Chip.afterSending_read p c a tx)

/-- The status byte shows the busy condition in bit 0 and the draw in bits 7:1. -/
theorem statusByte_bits (b : Bool) (noise : Byte) :
    busy (statusByte b noise) = b ∧ statusByte b noise &&& 0xFE#8 = noise &&& 0xFE#8 := by
  decide +revert

/-- Settles O31: a status read is inside the contract, busy or not, and its second byte is `statusByte`. -/
theorem statusReadShowsBusy : Obligations.StatusReadShowsBusy := by
  intro p c noise hc
  obtain ⟨hbusy, hdraw⟩ := statusByte_bits c.cbusy (noise 1)
  have hok : c.beginBracket.breaks p [opReadStatus, 0x00#8] = false := Chip.breaks_status p c _
  refine ⟨⟨noise 0, statusByte c.cbusy (noise 1), ?_, hbusy, rfl, hdraw⟩,
    (Chip.bracket_one_call hc hok).trans (Chip.afterSending_status p c _)⟩
  rw [Chip.reply_beginBracket]
  exact List.map_congr_left fun i _ => Chip.replyAt_status i (noise i) hc rfl

/-! ### Failed operations -/

/-- A wire command whose call the transport faults raises BusFault; a status read has sent its exchange. -/
theorem exec_wire_fault {s : State} {i : Instr} {fa : FlashAddr} (hf : (s.answerAt 0).fault = true)
    (hi : i ∈ [.writeEnableCmd, .readStatusCmd, .readCmd fa, .sectorEraseCmd fa, .pageProgramCmd fa]) :
    ∃ tx, exec i s = .next ((s.faulted tx).raise .busFault) ∧ (i = .readStatusCmd → tx = statusExchange) := by
  have hx : ∀ tx k, Host.Outcome.next (s.xfer tx k) = (.next ((s.faulted tx).raise .busFault) : Result) :=
    fun tx k => congrArg _ (State.xfer_fault hf tx k)
  simp only [List.mem_cons, List.not_mem_nil, or_false] at hi
  rcases hi with rfl | rfl | rfl | rfl | rfl
  · exact ⟨_, hx _ _, nofun⟩
  · exact ⟨_, hx _ _, fun _ => rfl⟩
  · simp only [exec, execReadCmd]
    split <;> exact ⟨_, hx _ _, nofun⟩
  · exact ⟨_, hx _ _, nofun⟩
  · simp only [exec, execPageProgramCmd]
    split <;> exact ⟨_, hx _ _, nofun⟩

/-- A chip at the end of a faulted bracket of a destructive operation: the unit in doubt, WEL and CBUSY free
(93 U3; log 14). -/
def Chip.doubtfulUnit (a n : Nat) (c : Chip) : Chip :=
  { c.scramble a n with
    work := .doubtful a n, wel := chipWel (c.fresh + 1), cbusy := chipBusy (c.fresh + 1), rx := [], cut := false }

theorem Chip.faulted_bracket {p : Params} {a n : Nat} {tx : List Byte} {c : Chip} (hc : c.conforms = true)
    (ha : a % n = 0) (hn : a + n ≤ p.capacity)
    (hb : c.cbusy = false ∨ (c.rx ++ tx).head? = some opReadStatus ∧ c.work.range p = some (a, n)) :
    (c.faulted p (some (a, n)) tx).endBracket p = c.doubtfulUnit a n := by
  rw [Chip.faulted_some (hb.imp_right And.left), Chip.doubt_kept hc ha hn (hb.imp_right And.right)]
  exact Chip.endBracket_faulted hc rfl

theorem Chip.doubtfulUnit_byteAt (a n : Nat) (c : Chip) (x : Nat) :
    (c.doubtfulUnit a n).byteAt x = if a ≤ x ∧ x < a + n then flashByte (c.fresh + 1) x else c.byteAt x :=
  Chip.scramble_byteAt a n c x

/-- Settles O46: a faulted bracket of a destructive operation ends with `doubtfulUnit`, any other outside the
contract. -/
theorem busFaultLeavesOnlyItsUnitInDoubt : Obligations.BusFaultLeavesOnlyItsUnitInDoubt := by
  refine ⟨fun s fa i a n hi hf hcs hu ha hn hc hb => ?_, fun s fa i hi hf hcs hu => ?_⟩
  · obtain ⟨tx, hexec, htx⟩ := exec_wire_fault (fa := fa) hf (by simp only [List.mem_cons] at hi ⊢; tauto)
    refine ⟨_, hexec, ?_⟩
    intro c c'
    have hb' : c.cbusy = false ∨
        (c.rx ++ tx).head? = some opReadStatus ∧ c.work.range s.params = some (a, n) := by
      refine hb.imp_right fun ⟨hst, hrx, hrange⟩ => ⟨?_, hrange⟩
      rw [htx hst, hrx]
      rfl
    have hc' : c' = c.doubtfulUnit a n := by
      rw [← Chip.faulted_bracket hc ha hn hb']
      simp [c', State.selected, hcs, hu]
    rw [hc']
    refine ⟨hc, rfl, rfl, Chip.doubtfulUnit_byteAt a n c, fun x hx => ?_⟩
    rw [Chip.complete_doubtful_outside s.params (c := c.doubtfulUnit a n) hc rfl hx, Chip.doubtfulUnit_byteAt,
      if_neg (by omega)]
  · obtain ⟨tx, hexec, -⟩ := exec_wire_fault (fa := fa) hf (by simp only [List.mem_cons] at hi ⊢; tauto)
    refine ⟨_, hexec, ?_⟩
    simp [State.selected, hcs, hu, Chip.faulted]

/-- Settles O47: the Timeout scrambles the unit under a free value's number, a later completion under the next. -/
theorem timeoutLeavesItsUnitInDoubt : Obligations.TimeoutLeavesItsUnitInDoubt := by
  intro s back a n has hp hm hbusy hbound hu ha hn hc hb
  let t : State := { s with pollcnt := s.pollcnt + 1 }.doubt.raise .timeout
  have hstep : step s = .next t := by
    rw [step_running has hp, microStep_pollTest hm, State.pollTest_timeout hbusy hbound]
  have hchip : t.chip = { s.chip.scramble a n with work := .doubtful a n } := by
    have hu' : State.unit { s with pollcnt := s.pollcnt + 1 } = some (a, n) := hu
    rw [State.raise_chip, State.doubt_chip, hu']
    exact Chip.doubt_kept hc ha hn hb
  have hconf : t.chip.conforms = true := by rw [hchip]; exact hc
  have hbyte : ∀ x, t.chip.byteAt x =
      if a ≤ x ∧ x < a + n then flashByte (s.chip.fresh + 1) x else s.chip.byteAt x := fun x => by
    rw [hchip]
    exact Chip.scramble_byteAt a n s.chip x
  refine ⟨t, hstep, rfl, hconf, by rw [hchip]; rfl, by rw [hchip]; rfl, hbyte, fun hbz => ?_⟩
  obtain ⟨hwel, hready, -, hdone⟩ := Chip.complete_spec s.params hconf (by rw [hchip]; exact hbz)
  refine ⟨hwel, hready, fun x => ?_⟩
  rw [hdone, Chip.doWork_doubtful_byteAt (by rw [hchip])]
  split
  · rw [hchip]
    rfl
  · next hx => rw [hbyte, if_neg hx]

/-! ### Outside the contract -/

theorem Chip.receive_outside {p : Params} {c : Chip} (hc : c.conforms = false) (tx : List Byte) :
    (c.receive p tx).conforms = false := by
  unfold Chip.receive
  split
  · rfl
  · exact hc

theorem Chip.doubt_outside {p : Params} {c : Chip} (hc : c.conforms = false) (a n : Nat) :
    (c.doubt p a n).conforms = false := by
  rcases Chip.doubt_cases p a n c with ⟨-, h⟩ | h <;> rw [h]
  · exact hc
  · rfl

theorem Chip.faulted_outside {p : Params} {c : Chip} (hc : c.conforms = false) (unit : Option (Nat × Nat))
    (tx : List Byte) : (c.faulted p unit tx).conforms = false := by
  unfold Chip.faulted
  split
  · split
    · exact Chip.doubt_outside hc _ _
    · rfl
  · rfl

/-- Settles O32: nothing the chip sees sets `conforms` again. -/
theorem contractOnceLeftIsNotRegained : Obligations.ContractOnceLeftIsNotRegained := by
  intro p c noise tx unit hc
  exact ⟨by simp [Chip.reply, Chip.replyAt, hc], Chip.receive_outside hc tx, by simp [Chip.endBracket, hc], hc,
    by simp [Chip.complete, hc], Chip.faulted_outside hc unit tx⟩

end Sys2Proof.Machine
end

section
/-! PROOFS. Encoding (spec/30_encoding.md): the decoders read back what the encoder writes (R101, R103, R106), a
frame opens with one of the five opcodes and the wire decoder refuses every other first byte (R104), and at a
transfer call a step runs what its opening bytes decode to (R195). -/

namespace Sys2Proof.Machine

open Config

/-! ### Request words -/

/-- A field of `n` bits put below a number is cut from it again. -/
theorem cut_field {n low : Nat} (h : low < 2 ^ n) (high : Nat) :
    (high * 2 ^ n + low) / 2 ^ n = high ∧ (high * 2 ^ n + low) % 2 ^ n = low :=
  (Nat.div_mod_unique (Nat.two_pow_pos n)).2 ⟨by rw [Nat.mul_comm, Nat.add_comm], h⟩

/-- The decoder cuts a request word whose fields fit back into its three fields (R106). -/
theorem decode_requestWord {p : Params} {addr len : Nat} (h : fieldsFit p addr len = true) (code : Nat)
    (payload : List Byte) :
    decode p (.port ⟨requestWord p code addr len, payload⟩) = decodeOp code addr len payload := by
  simp only [fieldsFit, Bool.and_eq_true, decide_eq_true_eq] at h
  obtain ⟨haddr, hlen⟩ := h
  obtain ⟨hhigh, hlow⟩ : requestWord p code addr len / 2 ^ p.lenWidth = code * 2 ^ p.hostAddrWidth + addr ∧
      requestWord p code addr len % 2 ^ p.lenWidth = len := cut_field hlen _
  obtain ⟨hop, hmid⟩ := cut_field haddr code
  rw [decode, decodeRequest, Nat.add_comm p.hostAddrWidth, Nat.pow_add, ← Nat.div_div_eq_div_mul, hhigh, hop, hmid,
    hlow]

/-! ### Decoding what was encoded -/

/-- A transfer call opens with the encoding of its wire command (R100, R101). -/
theorem encode_callInstr (p : Params) (a : FlashAddr) (c : Call) : encode p (c.instr a) = .wire (c.opening a) := by
  cases c <;> rfl

/-- The wire decoder reads back the encoding of a call's wire command (R101, R103). -/
theorem decode_encode_wire (p : Params) (a : FlashAddr) (c : Call) :
    decode p (encode p (c.instr a)) = .ok (c.instr a) := by
  rw [encode_callInstr, decode_opening]

/-- Settles O2: a wire command by the transfer call that opens with it, a request by the fields of its word. -/
theorem decodeOfEncodeIsTheInstruction : Obligations.DecodeOfEncodeIsTheInstruction := by
  intro p i hi
  cases i with
  | pageProgramCmd a => exact decode_encode_wire p a .programFrame
  | readCmd a => exact decode_encode_wire p a .readFrame
  | readStatusCmd => exact decode_encode_wire p 0#24 .status
  | writeEnableCmd => exact decode_encode_wire p 0#24 .writeEnable
  | sectorEraseCmd a => exact decode_encode_wire p a .eraseFrame
  | read addr len => exact decode_requestWord hi 0 []
  | writeEnable addr len => exact decode_requestWord hi 1 []
  | sectorErase addr len => exact decode_requestWord hi 2 []
  | readStatus addr len => exact decode_requestWord hi 4 []
  | pageProgram addr len payload =>
    simp only [WellFormed, Bool.and_eq_true, decide_eq_true_eq] at hi
    obtain ⟨hfit, hlen⟩ := hi
    exact (decode_requestWord hfit 3 payload).trans (if_pos hlen)

/-! ### Opcodes and sample words -/

/-- The bytes that R104 lists are those the model's `isOpcode` knows. -/
theorem mem_opcodes_iff (b : Byte) : b ∈ [0x02#8, 0x03#8, 0x05#8, 0x06#8, 0x20#8] ↔ isOpcode b = true := by
  simp [isOpcode, opPageProgram, opRead, opReadStatus, opWriteEnable, opSectorErase, or_assoc]

/-- Every frame opens with an opcode (R150 to R155). -/
theorem frame_head (c : Command) : ∃ b rest, frame c = b :: rest ∧ isOpcode b = true := by
  cases c with
  | read a => exact ⟨opRead, addr3 a, rfl, by decide⟩
  | writeEnable => exact ⟨opWriteEnable, [], rfl, by decide⟩
  | status => exact ⟨opReadStatus, [], rfl, by decide⟩
  | sectorErase a => exact ⟨opSectorErase, addr3 a, rfl, by decide⟩
  | pageProgram a => exact ⟨opPageProgram, addr3 a, rfl, by decide⟩

/-- A first byte that is none of the five is "not a command of this block" (R104). -/
theorem decodeWire_notACommand {b : Byte} (h : isOpcode b = false) (rest : List Byte) :
    decodeWire (b :: rest) = .error (.notACommand b) := by
  simp only [isOpcode, Bool.or_eq_false_iff, beq_eq_false_iff_ne] at h
  obtain ⟨⟨⟨⟨hprogram, hread⟩, hstatus⟩, henable⟩, herase⟩ := h
  rw [decodeWire, if_neg hprogram, if_neg hread, if_neg hstatus, if_neg henable, if_neg herase]

/-- Settles O6: the five opcodes open every frame, and are all that the wire decoder knows. -/
theorem onlyFiveOpcodesAreCommands : Obligations.OnlyFiveOpcodesAreCommands := by
  refine ⟨fun c => ?_, fun b rest hb => ?_⟩
  · obtain ⟨b, rest, hframe, hop⟩ := frame_head c
    exact ⟨b, rest, hframe, (mem_opcodes_iff b).2 hop⟩
  · rw [mem_opcodes_iff, Bool.not_eq_true] at hb
    exact decodeWire_notACommand hb rest

/-- Settles O1: both decoders evaluated on the written-out words. -/
theorem sampleWordsDecode : Obligations.SampleWordsDecode :=
  ⟨rfl, rfl, rfl, rfl, rfl, rfl, rfl, rfl, rfl⟩

/-! ### Steps -/

/-- Settles O8: the opening bytes decode to the call's own wire command, which is what the step runs. -/
theorem stepRunsTheWireCommandOfTheCall : Obligations.StepRunsTheWireCommandOfTheCall := by
  intro s s' c i hd hp hm hi
  obtain rfl : c.instr s.addr = i := Except.ok.inj ((decode_opening s.params s.addr c).symm.trans hi)
  rw [step_noneDue hd, State.noneDue_eq hd, blockStep_running (by exact hp), microStep_xfer (by exact hm)]

end Sys2Proof.Machine
end

section
/-! PROOFS. The Command Framer (spec/41_command_framer.md): the three address bytes are slices of the address
(R156), a frame is read back (R157), and each wire command sends its bytes in one call and changes nothing but
what the call's answer and the micro-program bring (R151 to R155). -/

namespace Sys2Proof.Machine

open Config

/-! ### The address bytes -/

/-- The three bytes are the low eight bits of the address shifted by 16, 8 and 0. -/
theorem addr3_shiftRight (a : Nat) :
    addr3 a = [BitVec.ofNat 8 (a >>> 16), BitVec.ofNat 8 (a >>> 8), BitVec.ofNat 8 (a >>> 0)] := by
  simp [addr3, Nat.shiftRight_eq_div_pow]

/-- For a 24-bit address they are its slices 23:16, 15:8 and 7:0 (R103). -/
theorem addr3_toNat (a : FlashAddr) :
    addr3 a.toNat = [a.extractLsb' 16 8, a.extractLsb' 8 8, a.extractLsb' 0 8] := addr3_shiftRight a.toNat

/-- A byte made of a number keeps only its low eight bits, masked or not. -/
theorem ofNat_and_0xFF (n : Nat) : BitVec.ofNat 8 (n &&& 0xFF) = BitVec.ofNat 8 n := by
  rw [Nat.and_two_pow_sub_one_eq_mod n 8]
  exact BitVec.eq_of_toNat_eq (by simp)

/-- Bits 24 and up are dropped. -/
theorem addr3_mod (a : Nat) : addr3 (a % 2 ^ 24) = addr3 a := by
  simp only [addr3, List.cons.injEq, and_true, ← BitVec.toNat_inj, BitVec.toNat_ofNat]
  omega

/-- Settles O4: masking to eight bits changes no byte, and the three examples are evaluated. -/
theorem addressBytesAreTheLowTwentyFourBits : Obligations.AddressBytesAreTheLowTwentyFourBits := by
  refine ⟨fun a => ⟨?_, (addr3_mod a).symm⟩, rfl, rfl, rfl⟩
  simp only [ofNat_and_0xFF]
  exact addr3_shiftRight a

/-! ### The round trip -/

/-- The command a frame was made from, by its opcode: the left inverse of `frame` (R157). -/
def unframe : List Byte → Option Command
  | [] => none
  | op :: bytes =>
    if op = opRead then some (.read (decode3 bytes))
    else if op = opWriteEnable then some .writeEnable
    else if op = opReadStatus then some .status
    else if op = opSectorErase then some (.sectorErase (decode3 bytes))
    else if op = opPageProgram then some (.pageProgram (decode3 bytes))
    else none

theorem unframe_frame {c : Command} (h : c.address < 2 ^ 24) : unframe (frame c) = some c := by
  cases c with
  | read a => exact congrArg (fun n => some (Command.read n)) (decode3_addr3_of_lt h)
  | writeEnable => rfl
  | status => rfl
  | sectorErase a => exact congrArg (fun n => some (Command.sectorErase n)) (decode3_addr3_of_lt h)
  | pageProgram a => exact congrArg (fun n => some (Command.pageProgram n)) (decode3_addr3_of_lt h)

/-- Settles O5: `decode3` and `unframe` read back what `addr3` and `frame` write, so both are injective. -/
theorem framingIsAPureRoundTrip : Obligations.FramingIsAPureRoundTrip := by
  refine ⟨decode3_addr3, fun _ => decode3_addr3_of_lt, fun a ha b hb hab => ?_, fun c d hc hd hcd => ?_⟩
  · rw [← decode3_addr3_of_lt ha, hab, decode3_addr3_of_lt hb]
  · rw [← Option.some_inj, ← unframe_frame hc, hcd, unframe_frame hd]

/-! ### A transfer call that is carried out -/

/-- The contract kept, or the chip not selected, a call adds to what the chip has received and no more (R77). -/
theorem State.exchanged_chipKept (s : State) (tx : List Byte) : s.chipKept (s.exchanged tx) tx := by
  intro hkept
  obtain ⟨rx, hchip⟩ : ∃ rx, (s.exchanged tx).chip = { s.chipAtCall with rx := rx } := by
    rw [State.exchanged_chip]
    split
    · next hs => exact ⟨_, Chip.receive_kept (hkept.resolve_left (by simp [hs]))⟩
    · exact ⟨_, rfl⟩
  rw [hchip]
  exact ⟨fun _ => rfl, rfl, rfl⟩

/-- A call that is carried out is a sent call, wherever control goes and whatever STATUS and the read data
become. -/
theorem State.exchanged_sentCall (s : State) (tx : List Byte) (q : Seq) (status : Byte) (rdata : List Byte) :
    s.sentCall ({ s.exchanged tx with status := status, rdata := rdata }.goTo q) tx (s.received tx) q :=
  ⟨rfl, State.received_length s tx, rfl, rfl, rfl, rfl, ⟨rfl, rfl, rfl, rfl⟩, ⟨rfl, rfl, rfl, rfl, rfl, rfl⟩,
    State.exchanged_chipKept s tx⟩

section
variable {s : State} (hf : (s.answerAt 0).fault = false) {tx : List Byte}
include hf

/-- A wire command whose call is not faulted goes on with the bytes received. -/
theorem exec_of_xfer {i : Instr} {k : List Byte → State → State} (hi : exec i s = .next (s.xfer tx k)) :
    exec i s = .next (k (s.received tx) (s.exchanged tx)) := by
  rw [hi, State.xfer_ok hf]

/-- A wire command that discards what it receives: a sent call, with STATUS and the read data as they were. -/
theorem sentCall_of_discarding {i : Instr} {q : Seq} {k : List Byte → State → State}
    (hi : exec i s = .next (s.xfer tx k)) (hk : ∀ rx, k rx (s.exchanged tx) = (s.exchanged tx).goTo q) :
    ∃ t rx, exec i s = .next t ∧ s.sentCall t tx rx q ∧ t.status = s.status ∧ t.rdata = s.rdata :=
  ⟨_, _, exec_of_xfer hf hi, hk _ ▸ State.exchanged_sentCall s tx q s.status s.rdata, hk _ ▸ ⟨rfl, rfl⟩⟩

end

/-! ### The five wire commands -/

/-- Settles O11: the frame of Write Enable is its opcode, and nothing received is kept. -/
theorem writeEnableCmdSendsItsByte : Obligations.WriteEnableCmdSendsItsByte :=
  fun _ hf => sentCall_of_discarding hf rfl fun _ => rfl

/-- Settles O12: the call receives two bytes, and the second goes to STATUS. -/
theorem readStatusCmdCapturesTheSecondByte : Obligations.ReadStatusCmdCapturesTheSecondByte := by
  intro s hf
  obtain ⟨r0, r1, hrx⟩ := List.length_eq_two.1 (State.received_length s statusExchange)
  have hexec := exec_of_xfer hf (i := .readStatusCmd) rfl
  have hsent := State.exchanged_sentCall s statusExchange s.seq.next r1 s.rdata
  rw [hrx] at hexec hsent
  exact ⟨_, r0, r1, hexec, hsent, rfl, rfl⟩

/-- Settles O13: the frame is the opcode and the slices of the address, and nothing received is kept. -/
theorem sectorEraseCmdSendsItsFrame : Obligations.SectorEraseCmdSendsItsFrame := by
  intro s a hf
  rw [← addr3_toNat]
  exact sentCall_of_discarding hf rfl fun _ => rfl

/-- Outside the data phase READ_CMD is the call of its frame, and past the data call when LEN is 0 (R191). -/
theorem exec_readCmd_frame {s : State} (hd : s.inDataPhase = false) (a : FlashAddr) :
    exec (.readCmd a) s = .next (s.xfer (frame (.read a.toNat))
      (fun _ t => if t.len = 0 then t.goTo t.seq.next.next else t.advance)) := by
  simp [exec, execReadCmd, hd]

/-- In the data phase READ_CMD is the call of the dummies, whose received bytes are the read data (R191). -/
theorem exec_readCmd_data {s : State} (hd : s.inDataPhase = true) (a : FlashAddr) :
    exec (.readCmd a) s = .next (s.xfer s.dummies (fun rx t => { t with rdata := rx }.advance)) := by
  simp [exec, execReadCmd, hd]

/-- Settles O14: the frame's call discards what it receives, the data call keeps it as the read data. -/
theorem readCmdSendsFrameThenDummies : Obligations.ReadCmdSendsFrameThenDummies := by
  intro s a hf
  refine ⟨fun hd => ?_, fun hd => ?_⟩
  · rw [← addr3_toNat]
    refine sentCall_of_discarding hf (exec_readCmd_frame hd a) fun _ => ?_
    rw [State.exchanged_len]
    split <;> rfl
  · exact ⟨_, _, exec_of_xfer hf (exec_readCmd_data hd a),
      State.exchanged_sentCall s s.dummies s.seq.next s.status (s.received s.dummies), rfl, rfl⟩

/-- PAGE_PROGRAM_CMD is the call of its frame or, in the data phase, of PAGEBUF (R155, R194). -/
theorem exec_pageProgramCmd (s : State) (a : FlashAddr) :
    exec (.pageProgramCmd a) s =
      .next (s.xfer (if s.inDataPhase then s.pagebuf else frame (.pageProgram a.toNat)) (fun _ t => t.advance)) := by
  simp only [exec, execPageProgramCmd]
  split <;> rfl

/-- Settles O15: the frame's call and the data call both discard what they receive. -/
theorem pageProgramCmdSendsFrameThenPage : Obligations.PageProgramCmdSendsFrameThenPage := by
  intro s a hf
  have hexec := exec_pageProgramCmd s a
  refine ⟨fun hd => ?_, fun hd => ?_⟩ <;> rw [hd] at hexec
  · rw [← addr3_toNat]
    exact sentCall_of_discarding hf hexec fun _ => rfl
  · exact sentCall_of_discarding hf hexec fun _ => rfl

end Sys2Proof.Machine
end

section
/-! PROOFS. Status polling (spec/42_status_poller.md): a whole bracket of one transfer call is one run; read_status
is such a bracket and its response (R175), a poll iteration such a bracket and the poll test (R170, R171). -/

namespace Sys2Proof.Machine

open Config

/-! ### A bracket of one call -/

/-- The micro-operations that stand from position `n` on. -/
theorem microAt_of_prefix {op : Op} {n i : Nat} {ms : List MicroOp} {m : MicroOp} (h : ms <+: (program op).drop n)
    (hi : ms[i]? = some m) : microAt op (.main (n + i)) = some m := by
  obtain ⟨rest, hrest⟩ := h
  obtain ⟨hlt, -⟩ := List.getElem?_eq_some_iff.1 hi
  rw [microAt, ← List.getElem?_drop, ← hrest, List.getElem?_append_left hlt, hi]

/-- The state once the bracket of the one call `c` that begins at `n` is done, the call not faulted (R13). -/
def State.bracketed (s : State) (n : Nat) (c : Call) : State :=
  let t := s.opened n
  ((c.keep (t.received (c.sends s)) (t.exchanged (c.sends s))).goTo (.main (n + 4))).closed (n + 4)

section
variable (s : State) (n : Nat) (c : Call)
@[simp] theorem State.opened_op : (s.opened n).op = s.op := rfl
@[simp] theorem State.opened_phase : (s.opened n).phase = phaseAt s.op (.main (n + 3)) := rfl
@[simp] theorem State.opened_async : (s.opened n).async = s.async := rfl
@[simp] theorem State.bracketed_params : (s.bracketed n c).params = s.params := Call.keep_params _ _ c
@[simp] theorem State.bracketed_op : (s.bracketed n c).op = s.op := Call.keep_op _ _ c
@[simp] theorem State.bracketed_addr : (s.bracketed n c).addr = s.addr := Call.keep_addr _ _ c
@[simp] theorem State.bracketed_len : (s.bracketed n c).len = s.len := Call.keep_len _ _ c
@[simp] theorem State.bracketed_pagebuf : (s.bracketed n c).pagebuf = s.pagebuf := Call.keep_pagebuf _ _ c
@[simp] theorem State.bracketed_seq : (s.bracketed n c).seq = .main (n + 7) := rfl
@[simp] theorem State.bracketed_cs : (s.bracketed n c).cs = .high := rfl
@[simp] theorem State.bracketed_err : (s.bracketed n c).err = s.err := Call.keep_err _ _ c
@[simp] theorem State.bracketed_pollcnt : (s.bracketed n c).pollcnt = s.pollcnt := Call.keep_pollcnt _ _ c
@[simp] theorem State.bracketed_async : (s.bracketed n c).async = s.async := Call.keep_async _ _ c

@[simp] theorem State.bracketed_phase : (s.bracketed n c).phase = phaseAt s.op (.main (n + 7)) := by
  simp [State.bracketed, State.closed]

/-- No call's bytes depend on its bracket being open. -/
theorem Call.sends_opened : c.sends (s.opened n) = c.sends s := by
  cases c <;> rfl

/-- The events of a bracket of one call. -/
theorem State.bracketed_trace :
    (s.bracketed n c).trace = s.trace ++
      bracketEvents s.params.guardCycles [.xfer (c.sends s) ((s.opened n).received (c.sends s))] := by
  simp [State.bracketed, State.closed, State.opened, bracketEvents]

/-- The bracket of the status exchange receives two bytes, and the second is STATUS (R170). -/
theorem State.bracketed_status :
    ∃ r0, (s.bracketed n .status).trace =
      s.trace ++ pollEvents s.params.guardCycles [r0, (s.bracketed n .status).status] := by
  obtain ⟨r0, r1, hrx⟩ := List.length_eq_two.1 (State.received_length (s.opened n) statusExchange)
  have hstatus : (s.bracketed n .status).status = r1 := congrArg (fun rx => rx.getD 1 0x00#8) hrx
  exact ⟨r0, by rw [State.bracketed_trace, hstatus, pollEvents, ← hrx]; rfl⟩
end

section
variable {s : State} {c : Call} (ha : s.async = []) (hp : s.phase ≠ .idle) (hc : c ≠ .readFrame)
  (hf : (s.answerAt 0).fault = false)
include ha hp hc hf

/-- A call other than a read's frame, not faulted, keeps what it keeps and goes on. -/
theorem State.leadsTo_carriedOut (hm : microAt s.op s.seq = some (.xfer c)) :
    s.leadsTo ((c.keep (s.received (c.sends s)) (s.exchanged (c.sends s))).goTo s.seq.next) := by
  refine State.leadsTo_call ha hp hm ((exec_call hm).trans ?_)
  rw [MicroOp.run, State.xfer_ok hf, Call.target, if_neg (fun h => hc h.1)]

/-- A bracket of one call, run from its `select()` to the end of its `deselect()`. -/
theorem State.leadsTo_bracketed {n : Nat} (hq : s.seq = .main n) (hb : bracket [c] <+: (program s.op).drop n) :
    s.leadsTo (s.bracketed n c) := by
  have hm : ∀ i m, (bracket [c])[i]? = some m → microAt s.op (.main (n + i)) = some m :=
    fun _ _ => microAt_of_prefix hb
  have hopen := State.leadsTo_opened ha hp hq (hm 0 _ rfl) (hm 1 _ rfl) (hm 2 _ rfl)
  have hcall := State.leadsTo_carriedOut (s := s.opened n) ha (by simp) hc hf (hm 3 _ rfl)
  rw [Call.sends_opened] at hcall
  refine State.leadsTo_trans hopen (State.leadsTo_trans hcall (State.leadsTo_closed ?_ (by simp) rfl ?_ ?_ ?_))
  · simpa using ha
  · simpa using hm 4 _ rfl
  · simpa using hm 5 _ rfl
  · simpa using hm 6 _ rfl
end

/-! ### A whole read_status -/

/-- Settles O19: the bracket of the status exchange, then the response with STATUS in it. -/
theorem readStatusReturnsTheRawByte : Obligations.ReadStatusReturnsTheRawByte := by
  intro s a l hp ha hf
  let t := s.accept ⟨.readStatus, a, l, []⟩
  have htaken : t.op = .readStatus ∧ t.seq = .main 0 ∧ t.phase ≠ .idle ∧ t.async = [] ∧ t.err = .ok ∧
      t.pollcnt = s.pollcnt ∧ t.pagebuf = s.pagebuf ∧ t.params = s.params ∧ (t.answerAt 0).fault = false ∧
      t.trace = s.trace ++ [.req ⟨.readStatus, a, l, []⟩] := by
    rw [show t = _ from State.accept_idle hp _]
    exact ⟨rfl, rfl, by simp, ha, rfl, rfl, rfl, rfl, hf 0 Nat.one_pos, rfl⟩
  obtain ⟨hop, hseq, hrun, hasync, herr, hpolls, hpage, hparams, hfault, hreq⟩ := htaken
  have hbracket : t.leadsTo (t.bracketed 0 .status) :=
    State.leadsTo_bracketed hasync hrun (by simp) hfault hseq (hop ▸ List.prefix_append _ _)
  have hrespond : (t.bracketed 0 .status).leadsTo (t.bracketed 0 .status).respond :=
    State.leadsTo_respond (by simpa using hasync) (by simp)
      (by rw [State.bracketed_op, hop]; rfl)
  obtain ⟨r0, htrace⟩ := t.bracketed_status 0
  refine ⟨_, r0, (t.bracketed 0 .status).status, ⟨t, rfl, State.leadsTo_trans hbracket hrespond, rfl⟩, ?_⟩
  simp [State.response, hop, herr, hpolls, hpage, htrace, hreq, hparams]

/-! ### One poll iteration -/

/-- After a passing poll test the response is due (R195). -/
theorem microAt_pollTest_next {op : Op} {q : Seq} {back : Nat} (h : microAt op q = some (.pollTest back)) :
    microAt op q.next = some .respond := by
  rcases microAt_pollTest h with ⟨rfl, rfl, -⟩ | ⟨rfl, rfl, -⟩ <;> rfl

/-- The poll bracket of an erase and of a program with its poll test, in phase Polling (R195). -/
theorem pollBracket_prefix {op : Op} {q : Seq}
    (h : op = .sectorErase ∧ q = .main 15 ∨ op = .pageProgram ∧ q = .main 17) :
    ∃ n, q = .main n ∧ phaseAt op q = .polling ∧ bracket [.status] ++ [.pollTest n] <+: (program op).drop n := by
  rcases h with ⟨rfl, rfl⟩ | ⟨rfl, rfl⟩
  · exact ⟨15, rfl, rfl, by decide⟩
  · exact ⟨17, rfl, rfl, by decide⟩

section
variable {s : State} {back : Nat} (ha : s.async = []) (hp : s.phase ≠ .idle)
  (hm : microAt s.op s.seq = some (.pollTest back))
include ha hp hm

theorem State.leadsTo_pollTest : s.leadsTo (s.pollTest back) :=
  State.leadsTo_one (by rw [step_running ha hp, microStep_pollTest hm])

/-- With BUSY clear the operation ends after its poll test (R171). -/
theorem State.leadsTo_pollReady (hb : busy s.status = false) :
    s.leadsTo { s with pollcnt := s.pollcnt + 1 }.advance.respond := by
  have htest := State.leadsTo_pollTest ha hp hm
  rw [State.pollTest_ready hb] at htest
  exact State.leadsTo_trans htest (State.leadsTo_respond ha (by simp) (microAt_pollTest_next hm))

/-- Out of polls with the line high, the error exit is the response alone (R224, R226). -/
theorem State.leadsTo_pollTimeout (hb : busy s.status = true)
    (hr : s.params.maxPolls.reached (s.pollcnt + 1) = true) (hcs : s.cs = .high) :
    s.leadsTo ({ s with pollcnt := s.pollcnt + 1 }.doubt.raise .timeout).respond := by
  have htest := State.leadsTo_pollTest ha hp hm
  rw [State.pollTest_timeout hb hr] at htest
  refine State.leadsTo_trans htest (State.leadsTo_respond (by simpa using ha) (by simp) ?_)
  simp only [State.raise_seq, State.selected, State.doubt_cs, hcs]
  rfl
end

/-- Settles O26: the bracket of the status exchange, then the poll test by its three outcomes. -/
theorem pollIterationDecides : Obligations.PollIterationDecides := by
  intro s ha hp he _ hq hf
  have hop : s.op = .sectorErase ∨ s.op = .pageProgram := hq.imp And.left And.left
  obtain ⟨n, hn, hphase, hprog⟩ := pollBracket_prefix hq
  have hbracket : s.leadsTo (s.bracketed n .status) :=
    State.leadsTo_bracketed ha hp (by simp) (hf 0 Nat.one_pos) hn ((List.prefix_append _ _).trans hprog)
  have hva : (s.bracketed n .status).async = [] := by simpa using ha
  have hvp : (s.bracketed n .status).phase ≠ .idle := by simp
  have hvm : microAt (s.bracketed n .status).op (s.bracketed n .status).seq = some (.pollTest n) := by
    simpa using microAt_of_prefix (i := 7) hprog rfl
  obtain ⟨r0, htrace⟩ := s.bracketed_status n
  cases hb : busy (s.bracketed n .status).status with
  | false =>
    refine ⟨_, r0, (s.bracketed n .status).status, State.leadsTo_trans hbracket
      (State.leadsTo_pollReady hva hvp hvm hb), ?_⟩
    rcases hop with hop | hop <;> simp [State.response, State.sameLatches, hop, he, hb, htrace]
  | true =>
    cases hr : s.params.maxPolls.reached (s.pollcnt + 1) with
    | true =>
      refine ⟨_, r0, (s.bracketed n .status).status, State.leadsTo_trans hbracket
        (State.leadsTo_pollTimeout hva hvp hvm hb (by simpa using hr) (by simp)), ?_⟩
      simp [State.response, State.sameLatches, hb, htrace]
    | false =>
      have hagain := State.leadsTo_pollTest hva hvp hvm
      rw [State.pollTest_again hb (by simpa using hr)] at hagain
      refine ⟨_, r0, (s.bracketed n .status).status, State.leadsTo_trans hbracket hagain, ?_⟩
      simp [State.sameLatches, hb, he, hn, ← hphase, htrace]

end Sys2Proof.Machine
end

section
/-! PROOFS. The three operations that do not poll (R197). -/

namespace Sys2Proof.Machine

open Config

/-- Only the start of the polls and the poll test write POLLCNT, and only the poll test raises Timeout (R171, R224). -/
theorem MicroOp.run_plain {m : MicroOp} (hc : m ≠ .clearPolls) (ht : ∀ back, m ≠ .pollTest back) {s : State}
    (he : s.err ≠ .timeout) : (m.run s).pollcnt = s.pollcnt ∧ (m.run s).err ≠ .timeout := by
  cases m with
  | clearPolls => exact absurd rfl hc
  | pollTest back => exact absurd rfl (ht back)
  | xfer c => rcases MicroOp.run_xfer_cases c s with hx | hx <;> rw [hx] <;> simp [he]
  | delay =>
    rw [MicroOp.run, State.delayCycle]
    split <;> exact ⟨rfl, he⟩
  | lenCheck =>
    rw [MicroOp.run, State.lenCheck]
    split <;> simp [he]
  | csLow => exact ⟨rfl, he⟩
  | csHigh => exact ⟨rfl, he⟩
  | respond => exact ⟨rfl, he⟩

/-- The three plain operations have no poll micro-operation (R191, R192, R175). -/
theorem microAt_plain {op : Op} {q : Seq} {m : MicroOp} (hop : op ∈ [Op.read, Op.writeEnable, Op.readStatus])
    (h : microAt op q = some m) : m ≠ .clearPolls ∧ ∀ back, m ≠ .pollTest back := by
  refine ⟨of_table (P := fun _ m => op ∈ [Op.read, Op.writeEnable, Op.readStatus] → m ≠ .clearPolls)
    (by cases op <;> decide) h hop, fun back hm => ?_⟩
  subst hm
  rcases microAt_pollTest h with ⟨rfl, -, -⟩ | ⟨rfl, -, -⟩ <;> simp at hop

/-- Settles O43, by cases on what a step of a running operation can be. -/
theorem plainOperationsNeverPoll : Obligations.PlainOperationsNeverPoll := by
  intro s t hp hop hr he h
  cases stepCase_of_step h with
  | waits host async => exact ⟨rfl, he⟩
  | accepts host async r =>
    rw [State.accept_running (by exact hp)]
    exact ⟨rfl, he⟩
  | runs async m _ hm =>
    obtain ⟨hc, ht⟩ := microAt_plain hop hm
    exact MicroOp.run_plain (s := s.withInputs s.host async) hc ht he
  | completes async => exact ⟨rfl, he⟩
  | resets rest hd => exact absurd hd (hr rest)

end Sys2Proof.Machine
end

section
/-! PROOFS. Whole operations (spec/43_flash_driver.md): the parts of a micro-program put together into runs that
carry out a number of transfer calls, and the operations that are such runs. -/

namespace Sys2Proof.Machine

open Config

/-! ### Runs that carry out their calls -/

/-- What holds at the start of a run and is kept by every step holds at its end. -/
theorem State.leadsTo_keeps {P : State → Prop} (keeps : ∀ s t, P s → step s = .next t → P t) {s t : State}
    (hl : s.leadsTo t) (h : P s) : P t := by
  obtain ⟨k, hk⟩ := hl
  induction k generalizing s with
  | zero =>
    cases hk
    exact h
  | succ k ih =>
    rw [State.run] at hk
    split at hk
    · next u hu => exact ih (keeps s u h hu) hk
    all_goals cases hk

/-- From `s` the machine comes to `t` by way of `k` transfer calls if none of them is faulted, and raises an error
on the way if one is. -/
structure State.Carries (s : State) (k : Nat) (t : State) : Prop where
  runs : s.noFaults k → s.leadsTo t
  fails : ¬ s.noFaults k → ∃ e, s.leadsTo e ∧ e.err ≠ .ok
  answers : ∀ j, t.answerAt j = s.answerAt (j + k)

/-- A run without a transfer call. -/
theorem State.Carries.of_leadsTo {s t : State} (h : s.leadsTo t) (ha : ∀ j, t.answerAt j = s.answerAt j) :
    s.Carries 0 t :=
  ⟨fun _ => h, fun hn => absurd (fun _ hj => absurd hj (Nat.not_lt_zero _)) hn, ha⟩

theorem State.Carries.trans {s t u : State} {k l : Nat} (h : s.Carries k t) (h' : t.Carries l u) :
    s.Carries (k + l) u := by
  have hsplit : s.noFaults (k + l) ↔ s.noFaults k ∧ t.noFaults l := by
    refine ⟨fun hf => ⟨fun j hj => hf j (by omega), fun j hj => ?_⟩, fun ⟨hs, ht⟩ j hj => ?_⟩
    · rw [h.answers]
      exact hf _ (by omega)
    · by_cases hjk : j < k
      · exact hs j hjk
      · have hrest := ht (j - k) (by omega)
        rwa [h.answers, Nat.sub_add_cancel (by omega)] at hrest
  refine ⟨fun hf => ?_, fun hf => ?_, fun j => ?_⟩
  · obtain ⟨hs, ht⟩ := hsplit.1 hf
    exact State.leadsTo_trans (h.runs hs) (h'.runs ht)
  · by_cases hs : s.noFaults k
    · obtain ⟨e, he, herr⟩ := h'.fails fun ht => hf (hsplit.2 ⟨hs, ht⟩)
      exact ⟨e, State.leadsTo_trans (h.runs hs) he, herr⟩
    · exact h.fails hs
  · rw [h'.answers, h.answers, Nat.add_assoc, Nat.add_comm l k]

/-! ### One transfer call -/

/-- The state once the transfer call `c`, not faulted, is done. -/
def State.called (c : Call) (s : State) : State :=
  (c.keep (s.received (c.sends s)) (s.exchanged (c.sends s))).goTo (c.target s)

section
variable (c : Call) (s : State)
@[simp] theorem State.called_params : (s.called c).params = s.params := by simp [State.called]
@[simp] theorem State.called_op : (s.called c).op = s.op := by simp [State.called]
@[simp] theorem State.called_addr : (s.called c).addr = s.addr := by simp [State.called]
@[simp] theorem State.called_len : (s.called c).len = s.len := by simp [State.called]
@[simp] theorem State.called_pagebuf : (s.called c).pagebuf = s.pagebuf := by simp [State.called]
@[simp] theorem State.called_phase : (s.called c).phase = phaseAt s.op (c.target s) := by simp [State.called]
@[simp] theorem State.called_seq : (s.called c).seq = c.target s := rfl
@[simp] theorem State.called_cs : (s.called c).cs = s.cs := by simp [State.called]
@[simp] theorem State.called_err : (s.called c).err = s.err := by simp [State.called]
@[simp] theorem State.called_pollcnt : (s.called c).pollcnt = s.pollcnt := by simp [State.called]
@[simp] theorem State.called_async : (s.called c).async = s.async := by simp [State.called]
@[simp] theorem State.called_trace :
    (s.called c).trace = s.trace ++ [.xfer (c.sends s) (s.received (c.sends s))] := by simp [State.called]

theorem State.called_status (h : c ≠ .status) : (s.called c).status = s.status := by
  simp [State.called, Call.keep_status _ _ c h]

@[simp] theorem Call.sends_called (d : Call) : d.sends (s.called c) = d.sends s := by
  cases d <;> simp [Call.sends, State.dummies]

theorem State.called_answerAt (j : Nat) : (s.called c).answerAt j = s.answerAt (j + 1) := by
  rw [← State.answerAt_exchanged s (c.sends s) j]
  cases c <;> rfl
end

/-- A call is done, or its fault raises an error. -/
theorem State.carries_called {s : State} {c : Call} (ha : s.async = []) (hp : s.phase ≠ .idle)
    (hm : microAt s.op s.seq = some (.xfer c)) : s.Carries 1 (s.called c) := by
  have hrun : s.leadsTo ((MicroOp.xfer c).run s) := State.leadsTo_call ha hp hm (exec_call hm)
  have hfirst : s.noFaults 1 ↔ (s.answerAt 0).fault = false :=
    ⟨fun h => h 0 Nat.one_pos, fun h j hj => by rwa [Nat.lt_one_iff.1 hj]⟩
  rw [MicroOp.run] at hrun
  refine ⟨fun hf => ?_, fun hf => ⟨_, hrun, ?_⟩, State.called_answerAt c s⟩
  · rwa [State.xfer_ok (hfirst.1 hf)] at hrun
  · rw [State.xfer_fault (by simpa [hfirst] using hf)]
    exact Err.noConfusion

/-! ### Brackets -/

/-- A `select()` stands at position `n` (R130). -/
def opensAt (op : Op) (n : Nat) : Prop :=
  microAt op (.main n) = some .delay ∧ microAt op (.main (n + 1)) = some .csLow ∧
    microAt op (.main (n + 2)) = some .delay

/-- A `deselect()` stands at position `n` (R131). -/
def closesAt (op : Op) (n : Nat) : Prop :=
  microAt op (.main n) = some .delay ∧ microAt op (.main (n + 1)) = some .csHigh ∧
    microAt op (.main (n + 2)) = some .delay

section
variable {s : State} {n : Nat} (ha : s.async = []) (hp : s.phase ≠ .idle) (hq : s.seq = .main n)
include ha hp hq

theorem State.carries_opened (h : opensAt s.op n) : s.Carries 0 (s.opened n) :=
  .of_leadsTo (State.leadsTo_opened ha hp hq h.1 h.2.1 h.2.2) fun _ => rfl

theorem State.carries_closed (h : closesAt s.op n) : s.Carries 0 (s.closed n) :=
  .of_leadsTo (State.leadsTo_closed ha hp hq h.1 h.2.1 h.2.2) fun _ => rfl
end

section
variable (s : State) (n : Nat)
@[simp] theorem State.opened_params : (s.opened n).params = s.params := rfl
@[simp] theorem State.opened_addr : (s.opened n).addr = s.addr := rfl
@[simp] theorem State.opened_len : (s.opened n).len = s.len := rfl
@[simp] theorem State.opened_pagebuf : (s.opened n).pagebuf = s.pagebuf := rfl
@[simp] theorem State.opened_seq : (s.opened n).seq = .main (n + 3) := rfl
@[simp] theorem State.opened_cs : (s.opened n).cs = .low := rfl
@[simp] theorem State.opened_status : (s.opened n).status = s.status := rfl
@[simp] theorem State.opened_err : (s.opened n).err = s.err := rfl
@[simp] theorem State.opened_pollcnt : (s.opened n).pollcnt = s.pollcnt := rfl
@[simp] theorem State.opened_trace : (s.opened n).trace = s.trace ++ selectEvents s.params.guardCycles := rfl
@[simp] theorem State.closed_params : (s.closed n).params = s.params := rfl
@[simp] theorem State.closed_op : (s.closed n).op = s.op := rfl
@[simp] theorem State.closed_pagebuf : (s.closed n).pagebuf = s.pagebuf := rfl
@[simp] theorem State.closed_phase : (s.closed n).phase = phaseAt s.op (.main (n + 3)) := rfl
@[simp] theorem State.closed_status : (s.closed n).status = s.status := rfl
@[simp] theorem State.closed_err : (s.closed n).err = s.err := rfl
@[simp] theorem State.closed_pollcnt : (s.closed n).pollcnt = s.pollcnt := rfl
@[simp] theorem State.closed_async : (s.closed n).async = s.async := rfl
@[simp] theorem State.closed_chip : (s.closed n).chip = s.chip.endBracket s.params := rfl
@[simp] theorem State.closed_trace : (s.closed n).trace = s.trace ++ deselectEvents s.params.guardCycles := rfl
end

/-- A bracket of one call opens, carries out the call and closes. -/
theorem State.bracketed_eq (s : State) (n : Nat) {c : Call} (hc : c ≠ .readFrame) :
    s.bracketed n c = ((s.opened n).called c).closed (n + 4) := by
  have htarget : c.target (s.opened n) = .main (n + 4) := if_neg fun h => hc h.1
  rw [State.called, htarget, Call.sends_opened]
  rfl

/-- A bracket of one call. -/
theorem State.carries_bracketed {s : State} {n : Nat} {c : Call} (ha : s.async = []) (hp : s.phase ≠ .idle)
    (hq : s.seq = .main n) (hc : c ≠ .readFrame) (hb : bracket [c] <+: (program s.op).drop n) :
    s.Carries 1 (s.bracketed n c) := by
  have hm : ∀ i m, (bracket [c])[i]? = some m → microAt s.op (.main (n + i)) = some m :=
    fun _ _ => microAt_of_prefix hb
  have hcall : (s.opened n).Carries 1 ((s.opened n).called c) :=
    State.carries_called ha (by simp) (hm 3 _ rfl)
  have hclose : ((s.opened n).called c).Carries 0 (((s.opened n).called c).closed (n + 4)) :=
    State.carries_closed (by simpa using ha) (by simp) (if_neg fun h => hc h.1)
      (by rw [State.called_op]; exact ⟨hm 4 _ rfl, hm 5 _ rfl, hm 6 _ rfl⟩)
  rw [State.bracketed_eq s n hc]
  exact (State.carries_opened ha hp hq ⟨hm 0 _ rfl, hm 1 _ rfl, hm 2 _ rfl⟩).trans (hcall.trans hclose)

/-! ### Acceptance -/

/-- The state in which the request `r` has been accepted (R40). -/
def State.taken (r : Request) (s : State) : State :=
  ({ s with
      op := r.op
      addr := truncAddr r.addr
      len := portLen s.params r.len
      pagebuf := acceptPage s.params r s.pagebuf
      err := .ok
      rdata := []
      rsp := none }.emit (.req r)).goTo (.main 0)

theorem State.accept_taken {s : State} (h : s.phase = .idle) (r : Request) : s.accept r = s.taken r :=
  State.accept_idle h r

section
variable (r : Request) (s : State)
@[simp] theorem State.taken_params : (s.taken r).params = s.params := rfl
@[simp] theorem State.taken_op : (s.taken r).op = r.op := rfl
@[simp] theorem State.taken_addr : (s.taken r).addr = truncAddr r.addr := rfl
@[simp] theorem State.taken_pagebuf : (s.taken r).pagebuf = acceptPage s.params r s.pagebuf := rfl
@[simp] theorem State.taken_phase : (s.taken r).phase = phaseAt r.op (.main 0) := rfl
@[simp] theorem State.taken_status : (s.taken r).status = s.status := rfl
@[simp] theorem State.taken_err : (s.taken r).err = .ok := rfl
@[simp] theorem State.taken_pollcnt : (s.taken r).pollcnt = s.pollcnt := rfl
@[simp] theorem State.taken_async : (s.taken r).async = s.async := rfl
@[simp] theorem State.taken_trace : (s.taken r).trace = s.trace ++ [.req r] := rfl

/-- The bytes of the frame depend on the low 24 bits of the requested address only (R156). -/
theorem addr3_truncAddr (a : Nat) : addr3 (truncAddr a).toNat = addr3 a := by
  rw [truncAddr, BitVec.toNat_ofNat, addr3_mod]
end

/-- An operation whose accepted request leads to `u` at rest. -/
theorem State.completes_of_taken {s u : State} {i : Instr} {r : Request} (hp : s.phase = .idle)
    (hi : exec i s = .next (s.accept r)) (hl : (s.taken r).leadsTo u) (hu : u.phase = .idle) : s.completes i u :=
  ⟨_, hi, State.accept_taken hp r ▸ hl, hu⟩

/-! ### write_enable and read -/

/-- A call other than the status exchange leaves STATUS alone (R29). -/
theorem State.bracketed_status_kept (s : State) (n : Nat) {c : Call} (h : c ≠ .status) :
    (s.bracketed n c).status = s.status := Call.keep_status _ _ c h

/-- Settles O18: the bracket of `[06]`, then the response. -/
theorem writeEnableRunsOneBracket : Obligations.WriteEnableRunsOneBracket := by
  intro s a l hp ha hf
  let t := s.taken ⟨.writeEnable, a, l, []⟩
  let v := t.bracketed 0 .writeEnable
  have hbracket : t.Carries 1 v :=
    State.carries_bracketed ha (by simp [t]) rfl (by simp) (List.prefix_append _ _)
  have hrespond : v.leadsTo v.respond :=
    State.leadsTo_respond (by simpa [v, t] using ha) (by simp [v]) (by simp [v, t]; rfl)
  refine ⟨v.respond, (t.opened 0).received [0x06#8],
    State.completes_of_taken hp rfl (State.leadsTo_trans (hbracket.runs hf) hrespond) rfl, by simp, ?_⟩
  simp [State.response, v, t, State.bracketed_status_kept, State.bracketed_trace, acceptPage_other, Call.sends,
    frame, opWriteEnable]

/-- The bracket of a read: its frame, then the dummies unless LEN is 0 (R191). -/
def State.readBracketed (t : State) : State :=
  let f := (t.opened 0).called .readFrame
  (if t.len = 0 then f else f.called .readData).closed 5

section
variable (t : State)
@[simp] theorem State.readBracketed_op : t.readBracketed.op = t.op := by
  unfold State.readBracketed; split <;> simp
@[simp] theorem State.readBracketed_pagebuf : t.readBracketed.pagebuf = t.pagebuf := by
  unfold State.readBracketed; split <;> simp
@[simp] theorem State.readBracketed_cs : t.readBracketed.cs = .high := rfl
@[simp] theorem State.readBracketed_phase : t.readBracketed.phase = phaseAt t.op (.main 8) := by
  unfold State.readBracketed; split <;> simp
@[simp] theorem State.readBracketed_status : t.readBracketed.status = t.status := by
  unfold State.readBracketed; split <;> simp [State.called_status]
@[simp] theorem State.readBracketed_err : t.readBracketed.err = t.err := by
  unfold State.readBracketed; split <;> simp
@[simp] theorem State.readBracketed_pollcnt : t.readBracketed.pollcnt = t.pollcnt := by
  unfold State.readBracketed; split <;> simp
@[simp] theorem State.readBracketed_async : t.readBracketed.async = t.async := by
  unfold State.readBracketed; split <;> simp

/-- The data a read has received once its bracket is done. -/
def State.readData : List Byte :=
  if t.len = 0 then [] else ((t.opened 0).called .readFrame).received t.dummies

@[simp] theorem State.readData_length : t.readData.length = t.len := by
  unfold State.readData
  split <;> simp [State.dummies, *]

theorem State.readBracketed_rdata (h : t.rdata = []) : t.readBracketed.rdata = t.readData := by
  unfold State.readBracketed State.readData
  split
  · exact h
  · rfl

/-- The events of the bracket of a read. -/
theorem State.readBracketed_trace :
    t.readBracketed.trace = t.trace ++ bracketEvents t.params.guardCycles
      ([.xfer (frame (.read t.addr.toNat)) ((t.opened 0).received (frame (.read t.addr.toNat)))]
        ++ if t.len = 0 then [] else [.xfer t.dummies t.readData]) := by
  unfold State.readBracketed State.readData
  split <;> simp [bracketEvents, Call.sends, State.dummies]
end

/-- A read makes one call, or two when LEN is not 0. -/
theorem State.carries_readBracketed {t : State} (ha : t.async = []) (hop : t.op = .read) (hq : t.seq = .main 0)
    (hp : t.phase ≠ .idle) : t.Carries (if t.len = 0 then 1 else 2) t.readBracketed := by
  have hopen : t.Carries 0 (t.opened 0) := State.carries_opened ha hp hq (by rw [hop]; exact ⟨rfl, rfl, rfl⟩)
  have hframe : (t.opened 0).Carries 1 ((t.opened 0).called .readFrame) :=
    State.carries_called ha (by simp) (by simp [hop]; rfl)
  have hclose : ∀ {v : State}, v.async = [] → v.phase ≠ .idle → v.seq = .main 5 → v.op = .read →
      v.Carries 0 (v.closed 5) := fun ha hp hq hop =>
    State.carries_closed ha hp hq (by rw [hop]; exact ⟨rfl, rfl, rfl⟩)
  unfold State.readBracketed
  split
  · next hl =>
    exact hopen.trans (hframe.trans (hclose (by simpa using ha) (by simp) (by simp [Call.target, hl, Seq.next])
      (by simpa using hop)))
  · next hl =>
    have hdata : ((t.opened 0).called .readFrame).Carries 1 (((t.opened 0).called .readFrame).called .readData) :=
      State.carries_called (by simpa using ha) (by simp) (by simp [Call.target, hl, Seq.next, hop]; rfl)
    exact hopen.trans (hframe.trans (hdata.trans (hclose (by simpa using ha) (by simp)
      (by simp [Call.target, hl, Seq.next]) (by simpa using hop))))

/-- Settles O17: the bracket of the frame and the dummies, then the response with the read data. -/
theorem readReturnsExactlyLengthBytes : Obligations.ReadReturnsExactlyLengthBytes := by
  intro s a l hp ha hwf hf
  let t := s.taken ⟨.read, a, l, []⟩
  have hlen : t.len = l := Nat.mod_eq_of_lt (len_lt_of_fieldsFit hwf)
  have hrun : t.leadsTo t.readBracketed :=
    (State.carries_readBracketed (t := t) ha rfl rfl (by simp [t])).runs fun j hj => hf j (by split at hj <;> omega)
  have hrespond : t.readBracketed.leadsTo t.readBracketed.respond :=
    State.leadsTo_respond (by simpa [t] using ha) (by simp) (by simp [t]; rfl)
  refine ⟨t.readBracketed.respond, (t.opened 0).received (frame (.read t.addr.toNat)), t.readData,
    State.completes_of_taken hp rfl (State.leadsTo_trans hrun hrespond) rfl, by simp [frame, addr3], by simp [hlen], ?_⟩
  have htrace := t.readBracketed_trace
  have hframe : frame (.read t.addr.toNat) = 0x03#8 :: addr3 a := congrArg _ (addr3_truncAddr a)
  have hdummies : t.dummies = List.replicate l s.params.dummyByte := by rw [State.dummies, hlen]; rfl
  rw [hframe, hdummies, hlen] at htrace
  have hop : t.op = .read ∧ t.err = .ok := ⟨rfl, rfl⟩
  simp [State.response, State.readBracketed_rdata t rfl, htrace, hframe, hop]
  simp [t, acceptPage_other]

end Sys2Proof.Machine
end

section
/-! PROOFS. Polling to the end (spec/42_status_poller.md R171 to R173), and the two destructive operations
(spec/43_flash_driver.md R193, R194). -/

namespace Sys2Proof.Machine

open Config

/-! ### The polls -/

/-- The operation stands at the start of its poll bracket, at position `n`, with no outside event. -/
structure State.AtPolls (s : State) (n : Nat) : Prop where
  async : s.async = []
  running : s.phase ≠ .idle
  ok : s.err = .ok
  seq : s.seq = .main n
  polls : bracket [.status] ++ [.pollTest n] <+: (program s.op).drop n

/-- The state in which another iteration begins. -/
def State.polledAgain (s : State) (n : Nat) : State :=
  ({ s.bracketed n .status with pollcnt := s.pollcnt + 1 } : State).goTo (.main n)

section
variable (s : State) (n : Nat)
@[simp] theorem State.polledAgain_params : (s.polledAgain n).params = s.params := by simp [State.polledAgain]
@[simp] theorem State.polledAgain_pollcnt : (s.polledAgain n).pollcnt = s.pollcnt + 1 := rfl
@[simp] theorem State.polledAgain_pagebuf : (s.polledAgain n).pagebuf = s.pagebuf := by simp [State.polledAgain]
@[simp] theorem State.polledAgain_chip : (s.polledAgain n).chip = (s.bracketed n .status).chip := rfl
@[simp] theorem State.polledAgain_trace : (s.polledAgain n).trace = (s.bracketed n .status).trace := rfl
end

section
variable {s : State} {n : Nat} (h : s.AtPolls n)
include h

/-- The bracket of one status exchange. -/
theorem State.AtPolls.carries_bracketed : s.Carries 1 (s.bracketed n .status) :=
  State.carries_bracketed h.async h.running h.seq (by simp) ((List.prefix_append _ _).trans h.polls)

theorem State.AtPolls.bracketed_async : (s.bracketed n .status).async = [] := by simp [h.async]

/-- Its poll test comes next. -/
theorem State.AtPolls.microAt_test :
    microAt (s.bracketed n .status).op (s.bracketed n .status).seq = some (.pollTest n) := by
  simpa using microAt_of_prefix (i := 7) h.polls rfl

/-- Only a destructive operation polls (R197). -/
theorem State.AtPolls.op : s.op = .sectorErase ∨ s.op = .pageProgram := by
  have hm := h.microAt_test
  rw [State.bracketed_op] at hm
  exact (microAt_pollTest hm).imp And.left And.left

theorem State.AtPolls.again : (s.polledAgain n).AtPolls n :=
  ⟨h.bracketed_async, by simp [State.polledAgain], by simpa [State.polledAgain] using h.ok, rfl,
    by simpa [State.polledAgain] using h.polls⟩
end

/-! ### How the polls end -/

section
variable {rx : List Byte} {polls : List (List Byte)} {err : Err} {extra : Nat} (hrx : rx.length = 2)
include hrx

/-- A first iteration that reads BUSY clear is the last. -/
theorem pollsEnd_ready (hb : busy (rx.getD 1 0x00#8) = false) : pollsEnd extra [rx] .ok :=
  ⟨by simpa using hrx, by simp, rx, rfl, .inl ⟨hb, rfl, by simp⟩⟩

/-- The last iteration that the bound allows reads BUSY set. -/
theorem pollsEnd_timeout (hb : busy (rx.getD 1 0x00#8) = true) : pollsEnd 0 [rx] .timeout :=
  ⟨by simpa using hrx, by simp, rx, rfl, .inr ⟨hb, rfl, rfl⟩⟩

/-- An iteration that reads BUSY set comes before the others. -/
theorem pollsEnd_again (hb : busy (rx.getD 1 0x00#8) = true) (h : pollsEnd extra polls err) :
    pollsEnd (extra + 1) (rx :: polls) err := by
  obtain ⟨hlen, hbusy, last, hlast, hend⟩ := h
  have hne : polls ≠ [] := fun he => by simp [he] at hlast
  refine ⟨by simpa [hrx] using hlen, ?_, last, by simp [List.getLast?_cons, hlast], ?_⟩
  · rw [List.dropLast_cons_of_ne_nil hne]
    exact List.forall_mem_cons.2 ⟨hb, hbusy⟩
  · simpa using hend
end

/-- The polls that begin at `s` have ended at rest in `u`, whose response is `err` (R171, R224). -/
structure State.PolledTo (s : State) (polls : List (List Byte)) (err : Err) (u : State) : Prop where
  idle : u.phase = .idle
  rsp : u.rsp = some ⟨err, [], none⟩
  ends : u.err = err
  cs : u.cs = .high
  pollcnt : u.pollcnt = s.pollcnt + polls.length
  pagebuf : u.pagebuf = s.pagebuf
  trace : u.trace = s.trace ++ polls.flatMap (pollEvents s.params.guardCycles) ++ [.rsp ⟨err, [], none⟩]

/-- What the later iterations come to, the first one added. -/
theorem State.PolledTo.cons {s : State} {n : Nat} {polls : List (List Byte)} {err : Err} {u : State}
    (hu : (s.polledAgain n).PolledTo polls err u) :
    ∃ r0, s.PolledTo ([r0, (s.bracketed n .status).status] :: polls) err u := by
  obtain ⟨r0, htrace⟩ := s.bracketed_status n
  refine ⟨r0, hu.idle, hu.rsp, hu.ends, hu.cs, ?_, hu.pagebuf.trans (by simp), ?_⟩
  · rw [hu.pollcnt, State.polledAgain_pollcnt, List.length_cons]
    omega
  · rw [hu.trace]
    simp [htrace]
section
variable {s : State} {n : Nat} (h : s.AtPolls n)
include h

/-- The last iteration reads BUSY clear. -/
theorem State.AtPolls.ends_ready (hb : busy (s.bracketed n .status).status = false) :
    ∃ r0 u, (s.bracketed n .status).leadsTo u ∧
      s.PolledTo [[r0, (s.bracketed n .status).status]] .ok u := by
  obtain ⟨r0, htrace⟩ := s.bracketed_status n
  refine ⟨r0, _, State.leadsTo_pollReady h.bracketed_async (by simp) h.microAt_test hb, ?_⟩
  have hop : s.op ≠ .read ∧ s.op ≠ .readStatus := by rcases h.op with hop | hop <;> simp [hop]
  constructor <;> simp [State.response, h.ok, hop, htrace]

/-- The last iteration reads BUSY set at the bound. -/
theorem State.AtPolls.ends_timeout (hb : busy (s.bracketed n .status).status = true)
    (hr : s.params.maxPolls.reached (s.pollcnt + 1) = true) :
    ∃ r0 u, (s.bracketed n .status).leadsTo u ∧
      s.PolledTo [[r0, (s.bracketed n .status).status]] .timeout u := by
  obtain ⟨r0, htrace⟩ := s.bracketed_status n
  refine ⟨r0, _, State.leadsTo_pollTimeout h.bracketed_async (by simp) h.microAt_test hb (by simpa using hr) rfl, ?_⟩
  constructor <;> simp [State.response, htrace]

/-- An iteration that reads BUSY set below the bound is followed by another (R171). -/
theorem State.AtPolls.goes_again (hb : busy (s.bracketed n .status).status = true)
    (hr : s.params.maxPolls.reached (s.pollcnt + 1) = false) :
    (s.bracketed n .status).leadsTo (s.polledAgain n) := by
  have hagain := State.leadsTo_pollTest h.bracketed_async (by simp) h.microAt_test
  rw [State.pollTest_again hb (by simpa using hr), State.bracketed_pollcnt] at hagain
  exact hagain

end

/-- With `left + 1` iterations allowed and no bus fault in them the polls end, in `OK` or `Timeout`. -/
theorem State.AtPolls.polls_end {s : State} {n extra left : Nat} (h : s.AtPolls n)
    (hmax : s.params.maxPolls = .upTo extra) (hleft : s.pollcnt + left = extra) (hf : s.noFaults (left + 1)) :
    ∃ u polls err, s.leadsTo u ∧ pollsEnd left polls err ∧ s.PolledTo polls err u := by
  induction left using Nat.strong_induction_on generalizing s with
  | _ left ih =>
    have hbracket : s.leadsTo (s.bracketed n .status) := h.carries_bracketed.runs fun j hj => hf j (by omega)
    cases hb : busy (s.bracketed n .status).status with
    | false =>
      obtain ⟨r0, u, hl, hu⟩ := h.ends_ready hb
      exact ⟨u, _, _, State.leadsTo_trans hbracket hl, pollsEnd_ready (rx := [r0, _]) rfl hb, hu⟩
    | true =>
      cases left with
      | zero =>
        obtain ⟨r0, u, hl, hu⟩ := h.ends_timeout hb (by simp [hmax, PollBound.reached]; omega)
        exact ⟨u, _, _, State.leadsTo_trans hbracket hl, pollsEnd_timeout (rx := [r0, _]) rfl hb, hu⟩
      | succ left =>
        have hagain := h.goes_again hb (by simp [hmax, PollBound.reached]; omega)
        obtain ⟨u, polls, err, hl, hends, hu⟩ := ih left (by omega) h.again (by simpa using hmax)
          (by rw [State.polledAgain_pollcnt]; omega) fun j hj => by
            have hj' := hf (j + 1) (by omega)
            rwa [← h.carries_bracketed.answers] at hj'
        obtain ⟨r0, hu⟩ := hu.cons
        exact ⟨u, _, _, State.leadsTo_trans hbracket (State.leadsTo_trans hagain hl),
          pollsEnd_again (rx := [r0, _]) rfl hb hends, hu⟩

/-! ### sector_erase -/

theorem State.carries_clearPolls {s : State} (ha : s.async = []) (hp : s.phase ≠ .idle)
    (hm : microAt s.op s.seq = some .clearPolls) : s.Carries 0 s.clearPolls :=
  .of_leadsTo (State.leadsTo_one (by rw [step_running ha hp, microStep_clearPolls hm])) fun _ => rfl

/-- The state of a sector_erase accepted in `t` when its polls begin: Write Enable and the erase frame sent (R193). -/
def State.erasePolls (t : State) : State :=
  ((t.bracketed 0 .writeEnable).bracketed 7 .eraseFrame).clearPolls

section
variable (t : State)
@[simp] theorem State.erasePolls_params : t.erasePolls.params = t.params := by
  simp [State.erasePolls, State.clearPolls]
@[simp] theorem State.erasePolls_pollcnt : t.erasePolls.pollcnt = 0 := rfl
@[simp] theorem State.erasePolls_pagebuf : t.erasePolls.pagebuf = t.pagebuf := by
  simp [State.erasePolls, State.clearPolls]
end

section
variable {t : State} (ha : t.async = []) (hop : t.op = .sectorErase)
include ha hop

theorem State.carries_erasePolls (hq : t.seq = .main 0) (hp : t.phase ≠ .idle) : t.Carries 2 t.erasePolls := by
  have henable : t.Carries 1 (t.bracketed 0 .writeEnable) :=
    State.carries_bracketed ha hp hq (by simp) (by rw [hop]; decide)
  have herase : (t.bracketed 0 .writeEnable).Carries 1 ((t.bracketed 0 .writeEnable).bracketed 7 .eraseFrame) :=
    State.carries_bracketed (by simpa using ha) (by simp) rfl (by simp) (by rw [State.bracketed_op, hop]; decide)
  exact henable.trans (herase.trans (State.carries_clearPolls (by simpa using ha) (by simp) (by simp [hop]; rfl)))

theorem State.atPolls_erasePolls (he : t.err = .ok) : t.erasePolls.AtPolls 15 := by
  refine ⟨?_, ?_, ?_, rfl, ?_⟩ <;> simp [State.erasePolls, State.clearPolls, ha, he, hop]
  decide
end

/-- The events before the polls of a sector_erase. -/
theorem State.erasePolls_trace (t : State) :
    ∃ r1 r2, t.erasePolls.trace = t.trace ++ bracketEvents t.params.guardCycles [.xfer [0x06#8] r1]
      ++ bracketEvents t.params.guardCycles [.xfer (0x20#8 :: addr3 t.addr.toNat) r2] :=
  ⟨_, _, by simp [State.erasePolls, State.clearPolls, State.bracketed_trace, Call.sends, frame, opSectorErase]; rfl⟩

/-- Settles O20: the brackets of Write Enable and of the erase, then the polls. -/
theorem sectorEraseRunsItsBrackets : Obligations.SectorEraseRunsItsBrackets := by
  intro s a l extra hp ha hmax hf
  let t := s.taken ⟨.sectorErase, a, l, []⟩
  have hcarry : t.Carries 2 t.erasePolls := State.carries_erasePolls ha rfl rfl (by simp [t])
  obtain ⟨u, polls, err, hl, hends, hu⟩ := (State.atPolls_erasePolls (t := t) ha rfl rfl).polls_end (left := extra)
    (by simpa [t] using hmax) (by simp)
    fun j hj => by
      rw [hcarry.answers]
      exact hf _ (by omega)
  obtain ⟨r1, r2, htrace⟩ := t.erasePolls_trace
  have hrun : t.leadsTo u := State.leadsTo_trans (hcarry.runs fun j hj => hf j (by omega)) hl
  refine ⟨u, r1, r2, polls, err, State.completes_of_taken hp rfl hrun hu.idle, hends, hu.rsp, hu.ends, hu.cs, ?_, ?_, ?_⟩
  · rw [hu.pollcnt]
    simp
  · rw [hu.pagebuf]
    simp [t, acceptPage_other]
  · rw [hu.trace, htrace]
    simp [t, addr3_truncAddr]

/-! ### page_program -/

/-- The state of a page_program accepted in `t` when its polls begin: Write Enable sent, and the frame and PAGEBUF
in one bracket (R194). -/
def State.programPolls (t : State) : State :=
  let v := (t.advance.bracketed 1 .writeEnable).opened 8
  (((v.called .programFrame).called .programData).closed 13).clearPolls

section
variable (t : State)
@[simp] theorem State.programPolls_params : t.programPolls.params = t.params := by
  simp [State.programPolls, State.clearPolls]
@[simp] theorem State.programPolls_pollcnt : t.programPolls.pollcnt = 0 := rfl
@[simp] theorem State.programPolls_pagebuf : t.programPolls.pagebuf = t.pagebuf := by
  simp [State.programPolls, State.clearPolls]
end

section
variable {t : State} (ha : t.async = []) (hop : t.op = .pageProgram)
include ha hop

theorem State.carries_programPolls (hq : t.seq = .main 0) (hp : t.phase ≠ .idle) (hlen : t.len = pageSize) :
    t.Carries 3 t.programPolls := by
  have hcheck : t.Carries 0 t.advance :=
    .of_leadsTo (State.leadsTo_one (by
      rw [step_running ha hp, microStep_lenCheck (by rw [hop, hq]; rfl), State.lenCheck_page hlen])) fun _ => rfl
  let e := t.advance.bracketed 1 .writeEnable
  have henable : t.advance.Carries 1 e :=
    State.carries_bracketed ha (by simp) (by simp [hq, Seq.next]) (by simp) (by rw [State.advance_op, hop]; decide)
  let v := e.opened 8
  have hopen : e.Carries 0 v :=
    State.carries_opened (by simpa [e] using ha) (by simp [e]) rfl (by
      rw [State.bracketed_op, State.advance_op, hop]; exact ⟨rfl, rfl, rfl⟩)
  have hframe : v.Carries 1 (v.called .programFrame) :=
    State.carries_called (by simpa [v, e] using ha) (by simp [v]) (by simp [v, e, hop]; rfl)
  have hdata : (v.called .programFrame).Carries 1 ((v.called .programFrame).called .programData) :=
    State.carries_called (by simpa [v, e] using ha) (by simp) (by simp [v, e, hop, Call.target]; rfl)
  have hclose : ((v.called .programFrame).called .programData).Carries 0
      (((v.called .programFrame).called .programData).closed 13) :=
    State.carries_closed (by simpa [v, e] using ha) (by simp) (by simp [v, Call.target, Seq.next]) (by
      simp only [State.called_op, v, e, State.opened_op, State.bracketed_op, State.advance_op, hop]
      exact ⟨rfl, rfl, rfl⟩)
  exact hcheck.trans (henable.trans (hopen.trans (hframe.trans (hdata.trans (hclose.trans
    (State.carries_clearPolls (by simpa [v, e] using ha) (by simp) (by simp [v, e, hop]; rfl)))))))

theorem State.atPolls_programPolls (he : t.err = .ok) : t.programPolls.AtPolls 17 := by
  refine ⟨?_, ?_, ?_, rfl, ?_⟩ <;> simp [State.programPolls, State.clearPolls, ha, he, hop]
  decide
end

/-- The events before the polls of a page_program. -/
theorem State.programPolls_trace (t : State) :
    ∃ r1 r2 r3, t.programPolls.trace = t.trace ++ bracketEvents t.params.guardCycles [.xfer [0x06#8] r1]
      ++ bracketEvents t.params.guardCycles
        [.xfer (0x02#8 :: addr3 t.addr.toNat) r2, .xfer t.pagebuf r3] :=
  ⟨_, _, _, by
    simp [State.programPolls, State.clearPolls, State.bracketed_trace, bracketEvents, Call.sends, frame, opPageProgram,
      opWriteEnable]
    exact ⟨rfl, rfl, rfl⟩⟩

/-- The length of a Page fits every port that R6 allows. -/
theorem page_fits {p : Params} (h : 9 ≤ p.lenWidth) : 256 < 2 ^ p.lenWidth :=
  Nat.lt_of_lt_of_le (by decide) (Nat.pow_le_pow_right Nat.two_pos h)

/-- Settles O21: the length check, the brackets of Write Enable and of the page, then the polls. -/
theorem pageProgramRunsItsBrackets : Obligations.PageProgramRunsItsBrackets := by
  intro s a extra page hp ha hmax hwidth hpage hf
  let t := s.taken ⟨.pageProgram, a, 256, page⟩
  have hfit := page_fits hwidth
  have hcarry : t.Carries 3 t.programPolls :=
    State.carries_programPolls ha rfl rfl (by simp [t]) (Nat.mod_eq_of_lt hfit)
  obtain ⟨u, polls, err, hl, hends, hu⟩ := (State.atPolls_programPolls (t := t) ha rfl rfl).polls_end (left := extra)
    (by simpa [t] using hmax) (by simp)
    fun j hj => by
      rw [hcarry.answers]
      exact hf _ (by omega)
  obtain ⟨r1, r2, r3, htrace⟩ := t.programPolls_trace
  have hrun : t.leadsTo u := State.leadsTo_trans (hcarry.runs fun j hj => hf j (by omega)) hl
  have htaken : t.pagebuf = page := acceptPage_program hfit hpage s.pagebuf
  refine ⟨u, r1, r2, r3, polls, err, State.completes_of_taken hp rfl hrun hu.idle, hends, hu.rsp, hu.ends, hu.cs,
    ?_, ?_, ?_⟩
  · rw [hu.pollcnt]
    simp
  · rw [hu.pagebuf]
    simp [htaken]
  · rw [hu.trace, htrace, htaken]
    simp [t, addr3_truncAddr]

end Sys2Proof.Machine
end

section
/-! PROOFS. The block and a conforming chip together (spec/43_flash_driver.md R199): with no outside event, an
operation that ends `OK` carried out all its calls, so the chip saw the operation's brackets and nothing else. -/

namespace Sys2Proof.Machine

open Config

/-! ### Runs that end at rest without an error -/

/-- From `s`, with no outside event and no request to come, the machine comes to `u`, at rest without an error. -/
structure State.EndsOk (s u : State) : Prop where
  async : s.async = []
  host : s.host = []
  runs : s.leadsTo u
  idle : u.phase = .idle
  ok : u.err = .ok

@[simp] theorem Call.keep_host (rx : List Byte) (s : State) (c : Call) : (c.keep rx s).host = s.host := by
  cases c <;> rfl

/-- No micro-operation takes a request from the host, and none clears an error (R31). -/
theorem MicroOp.run_host_err (m : MicroOp) (s : State) :
    (m.run s).host = s.host ∧ (s.err ≠ .ok → (m.run s).err ≠ .ok) := by
  cases m with
  | xfer c => rcases MicroOp.run_xfer_cases c s with hx | hx <;> rw [hx] <;> simp
  | delay =>
    rw [MicroOp.run, State.delayCycle]
    split <;> exact ⟨rfl, id⟩
  | lenCheck =>
    rw [MicroOp.run, State.lenCheck]
    split <;> simp
  | pollTest back =>
    simp only [MicroOp.run, State.pollTest]
    split_ifs <;> simp
  | csLow => exact ⟨rfl, id⟩
  | csHigh => exact ⟨rfl, id⟩
  | clearPolls => exact ⟨rfl, id⟩
  | respond => exact ⟨rfl, id⟩

/-- With no outside event and no request to come, a step rests or runs a micro-operation. -/
theorem step_alone {s t : State} (ha : s.async = []) (hh : s.host = []) (h : step s = .next t) :
    (s.phase = .idle ∧ t = s) ∨ ∃ m : MicroOp, t = m.run s := by
  rw [step_block ha] at h
  by_cases hp : s.phase = .idle
  · rw [blockStep_idle hp] at h
    simp only [idleStep, hh] at h
    exact .inl ⟨hp, (Host.Outcome.next.inj h).symm⟩
  · rw [blockStep_running hp] at h
    obtain ⟨m, -, hm⟩ := microStep_next h
    exact .inr ⟨m, hm⟩

/-- Nothing is presented along the run, and an error raised on it stays. -/
theorem State.leadsTo_alone {s t : State} (ha : s.async = []) (hh : s.host = []) (hl : s.leadsTo t) :
    t.async = [] ∧ t.host = [] ∧ (s.err ≠ .ok → t.err ≠ .ok) := by
  refine State.leadsTo_keeps (P := fun t => t.async = [] ∧ t.host = [] ∧ (s.err ≠ .ok → t.err ≠ .ok)) ?_ hl
    ⟨ha, hh, id⟩
  rintro v w ⟨hva, hvh, hve⟩ hstep
  rcases step_alone hva hvh hstep with ⟨-, rfl⟩ | ⟨m, rfl⟩
  · exact ⟨hva, hvh, hve⟩
  · obtain ⟨hhost, herr⟩ := m.run_host_err v
    exact ⟨(m.frame_run v).async.trans hva, hhost.trans hvh, fun h => herr (hve h)⟩

/-- At rest with nothing presented the machine stays as it is. -/
theorem State.stays_at_rest {u t : State} (ha : u.async = []) (hh : u.host = []) (hp : u.phase = .idle)
    (hl : u.leadsTo t) : t = u := by
  refine State.leadsTo_keeps (P := (· = u)) ?_ hl rfl
  rintro v w rfl hstep
  rw [step_block ha, blockStep_idle hp, idleStep, hh] at hstep
  exact (Host.Outcome.next.inj hstep).symm

section
variable {s u : State} (h : s.EndsOk u)
include h

/-- Every state the run comes through ends as it does. -/
theorem State.EndsOk.after {t : State} (hl : s.leadsTo t) : t.EndsOk u := by
  obtain ⟨hta, hth, -⟩ := State.leadsTo_alone h.async h.host hl
  obtain ⟨hua, huh, -⟩ := State.leadsTo_alone h.async h.host h.runs
  refine ⟨hta, hth, ?_, h.idle, h.ok⟩
  obtain ⟨k, hk⟩ := hl
  obtain ⟨l, hr⟩ := h.runs
  rcases Nat.le_total k l with hkl | hlk
  · rw [← Nat.add_sub_cancel' hkl, State.run_add, hk] at hr
    exact ⟨l - k, hr⟩
  · rw [← Nat.add_sub_cancel' hlk, State.run_add, hr] at hk
    rw [State.stays_at_rest hua huh h.idle ⟨k - l, hk⟩]
    exact State.leadsTo_refl u

theorem State.EndsOk.no_error : s.err = .ok :=
  by_contra fun he => (State.leadsTo_alone h.async h.host h.runs).2.2 he h.ok

theorem State.EndsOk.eq_of_idle (hp : s.phase = .idle) : u = s :=
  State.stays_at_rest h.async h.host hp h.runs

/-- No call on the way was faulted. -/
theorem State.EndsOk.of_carries {k : Nat} {t : State} (hc : s.Carries k t) : t.EndsOk u := by
  refine h.after (hc.runs (by_contra fun hf => ?_))
  obtain ⟨e, hl, he⟩ := hc.fails hf
  exact he (h.after hl).no_error
end

/-- An operation begun with no outside event and no request to come that ends without an error. -/
theorem State.endsOk_of_completes {s u : State} {i : Instr} {r : Request} (ha : s.async = []) (hh : s.host = [])
    (hp : s.phase = .idle) (hi : exec i s = .next (s.accept r)) (h : s.completes i u) (hok : u.err = .ok) :
    (s.taken r).EndsOk u := by
  obtain ⟨t, ht, hl, hu⟩ := h
  rw [hi, State.accept_taken hp] at ht
  cases ht
  exact ⟨ha, hh, hl, hu, hok⟩

/-! ### The chip in a bracket -/

@[simp] theorem Chip.beginBracket_conforms (c : Chip) : c.beginBracket.conforms = c.conforms := rfl
@[simp] theorem Chip.beginBracket_work (c : Chip) : c.beginBracket.work = c.work := rfl
@[simp] theorem Chip.beginBracket_byteAt (c : Chip) (x : Nat) : c.beginBracket.byteAt x = c.byteAt x := rfl

@[simp] theorem Chip.beginBracket_programmed (c : Chip) (a : Nat) (d : List Byte) :
    c.beginBracket.programmed a d = c.programmed a d := by
  induction d generalizing a with
  | nil => rfl
  | cons b rest ih => rw [Chip.programmed, Chip.programmed, ih, Chip.beginBracket_byteAt]

theorem Chip.doWork_beginBracket (p : Params) (c : Chip) :
    c.beginBracket.doWork p = (c.doWork p).beginBracket := by
  simp only [Chip.doWork, Chip.beginBracket_work, Chip.beginBracket_programmed]
  split <;> rfl

/-- The completion of a chip does not depend on the bracket it falls in. -/
theorem Chip.complete_beginBracket (p : Params) (c : Chip) :
    c.beginBracket.complete p = (c.complete p).beginBracket := by
  simp only [Chip.complete, Chip.beginBracket_conforms, Chip.beginBracket_cbusy, Chip.doWork_beginBracket]
  split_ifs <;> rfl

/-- A completed chip in its contract is not busy. -/
theorem Chip.complete_not_busy (p : Params) {c : Chip} (hc : c.conforms = true) :
    (c.complete p).cbusy = false ∧ (c.complete p).conforms = true := by
  cases hb : c.cbusy with
  | false => rw [Chip.complete_ready hc hb]; exact ⟨hb, hc⟩
  | true =>
    obtain ⟨-, hready, hconf, -⟩ := Chip.complete_spec p hc hb
    exact ⟨hready, hconf⟩

/-- By a call a chip is as it was before, or has completed (R76). -/
theorem State.chipAtCall_cases (s : State) : s.chipAtCall = s.chip ∨ s.chipAtCall = s.chip.complete s.params := by
  unfold State.chipAtCall
  split
  · exact .inr rfl
  · exact .inl rfl

/-- A chip that is not busy is at a call as it was before. -/
theorem State.chipAtCall_ready {s : State} (hc : s.chip.conforms = true) (hb : s.chip.cbusy = false) :
    s.chipAtCall = s.chip :=
  s.chipAtCall_cases.elim id fun h => h.trans (Chip.complete_ready hc hb)

theorem State.chipAtCall_opened (s : State) (n : Nat) : (s.opened n).chipAtCall = s.chipAtCall.beginBracket := by
  unfold State.chipAtCall
  rw [apply_ite Chip.beginBracket, ← Chip.complete_beginBracket]
  rfl

/-- The call with the line low adds to what the chip has received. -/
theorem State.called_chip {s : State} (hcs : s.cs = .low) (c : Call) :
    (s.called c).chip = s.chipAtCall.receive s.params (c.sends s) := by
  simp [State.called, State.selected, hcs]

/-- What the chip makes of a bracket of one call. -/
theorem State.bracketed_chip (s : State) (n : Nat) {c : Call} (hc : c ≠ .readFrame) :
    (s.bracketed n c).chip = (s.chipAtCall.beginBracket.receive s.params (c.sends s)).endBracket s.params := by
  rw [State.bracketed_eq s n hc, State.closed_chip, State.called_chip rfl, State.chipAtCall_opened,
    Call.sends_opened, State.called_params, State.opened_params]

/-- A status exchange shows whether the chip is busy, and changes nothing (R75). -/
theorem State.bracketed_status_busy {s : State} (hc : s.chipAtCall.conforms = true) (n : Nat) :
    busy (s.bracketed n .status).status = s.chipAtCall.cbusy ∧
      (s.bracketed n .status).chip = s.chipAtCall.beginBracket := by
  obtain ⟨⟨r0, r1, hreply, hbusy, -, -⟩, hkept⟩ :=
    statusReadShowsBusy s.params s.chipAtCall (s.opened n).noise hc
  have hrx : (s.opened n).received statusExchange = [r0, r1] := by
    rw [State.received, if_pos (by rfl), State.chipAtCall_opened]
    exact hreply
  have hstatus : (s.bracketed n .status).status = r1 := congrArg (fun rx => rx.getD 1 0x00#8) hrx
  exact ⟨by rw [hstatus, hbusy], (State.bracketed_chip s n (by simp)).trans hkept⟩

/-- A ready chip has received the frame when the second call of its bracket is made. -/
theorem State.chipAtCall_afterFrame {s : State} {c : Call} (hc : s.chip.conforms = true) (hb : s.chip.cbusy = false)
    (hok : s.chip.beginBracket.breaks s.params (c.sends s) = false) (n : Nat) :
    ((s.opened n).called c).chipAtCall = s.chip.beginBracket.receive s.params (c.sends s) := by
  have hchip : ((s.opened n).called c).chip = s.chip.beginBracket.receive s.params (c.sends s) := by
    rw [State.called_chip rfl, State.chipAtCall_opened, State.chipAtCall_ready hc hb, Call.sends_opened,
      State.opened_params]
  have hkept := Chip.receive_kept (c := s.chip.beginBracket) (tx := c.sends s) hok
  rw [← hchip]
  exact State.chipAtCall_ready (by rw [hchip, hkept]; exact hc) (by rw [hchip, hkept]; exact hb)

/-- A read within capacity receives the bytes of the array from a ready chip (R74). -/
theorem State.readData_eq {t : State} (hc : t.chip.conforms = true) (hb : t.chip.cbusy = false)
    (hlt : t.addr.toNat < t.params.capacity) (hcap : t.addr.toNat + t.len ≤ t.params.capacity) :
    t.readData = t.chip.memRead t.addr.toNat t.len := by
  have ha : t.addr.toNat < 2 ^ 24 := t.addr.isLt
  have hsecond : ((t.opened 0).called .readFrame).chipAtCall =
      t.chip.beginBracket.receive t.params (0x03#8 :: addr3 t.addr.toNat) :=
    State.chipAtCall_afterFrame (c := .readFrame) hc hb (Chip.breaks_read (d := []) hb ha hlt hlt.le) 0
  have hreply : ((t.opened 0).called .readFrame).received t.dummies =
      ((t.opened 0).called .readFrame).chipAtCall.reply t.params ((t.opened 0).called .readFrame).noise t.dummies := by
    simp [State.received, State.selected]
  obtain ⟨-, hbytes, -⟩ := readDataIsTheArray t.params t.chip t.addr.toNat (fun _ => 0)
    ((t.opened 0).called .readFrame).noise t.dummies hc hb ha hlt
  rw [← hsecond, ← hreply] at hbytes
  have hlen : t.dummies.length = t.len := by simp [State.dummies]
  unfold State.readData
  split
  · next hz => rw [hz]; rfl
  · refine List.ext_getElem? fun i => ?_
    by_cases hi : i < t.len
    · rw [hbytes i (by omega) (by omega)]
      simp [Chip.memRead, hi]
    · rw [List.getElem?_eq_none (by simp [hlen]; omega), List.getElem?_eq_none (by simp; omega)]

/-! ### The chip at the end of the polls -/

/-- At rest with nothing presented, the chip in its contract and not busy. -/
structure State.Ready (s : State) : Prop where
  idle : s.phase = .idle
  async : s.async = []
  host : s.host = []
  conforms : s.chip.conforms = true
  ready : s.chip.cbusy = false

theorem State.leadsTo_params {s t : State} (hl : s.leadsTo t) : t.params = s.params :=
  State.leadsTo_keeps (P := fun t => t.params = s.params)
    (fun v w hv hstep => (parametersStayAndTheTraceGrows v w hstep).1.trans hv) hl rfl

theorem State.leadsTo_trace_length {s t : State} (hl : s.leadsTo t) : s.trace.length ≤ t.trace.length := by
  refine State.leadsTo_keeps (P := fun t => s.trace.length ≤ t.trace.length) (fun v w hv hstep => ?_) hl le_rfl
  obtain ⟨-, more, hmore⟩ := parametersStayAndTheTraceGrows v w hstep
  rw [hmore, List.length_append]
  omega

/-- A status exchange that reads BUSY clear finds the chip completed, one that reads it set finds the chip as it was
(R75, R76). -/
theorem State.bracketed_status_tells {s : State} (hc : s.chip.conforms = true) (n : Nat) :
    (busy (s.bracketed n .status).status = false →
      (s.bracketed n .status).chip = (s.chip.complete s.params).beginBracket) ∧
    (busy (s.bracketed n .status).status = true → (s.bracketed n .status).chip = s.chip.beginBracket) := by
  obtain ⟨hready, hconf⟩ := Chip.complete_not_busy s.params hc
  rcases s.chipAtCall_cases with hcall | hcall
  · obtain ⟨hbusy, hchip⟩ := State.bracketed_status_busy (by rw [hcall]; exact hc) n
    rw [hcall] at hbusy hchip
    exact ⟨fun hb => by rw [hchip, Chip.complete_ready hc (hbusy.symm.trans hb)], fun _ => hchip⟩
  · obtain ⟨hbusy, hchip⟩ := State.bracketed_status_busy (by rw [hcall]; exact hconf) n
    rw [hcall] at hbusy hchip
    exact ⟨fun _ => hchip, fun hb => by simp [hbusy, hready] at hb⟩

/-- Polls that end without an error leave the chip completed: by induction on the events still to come, as each
iteration that reads BUSY set adds some and finds the chip as it was (R171, R173, R76). -/
theorem State.AtPolls.chip_ends {s u : State} {n : Nat} (h : s.AtPolls n) (he : s.EndsOk u)
    (hc : s.chip.conforms = true) : u.chip = (s.chip.complete s.params).beginBracket := by
  induction hk : u.trace.length - s.trace.length using Nat.strong_induction_on generalizing s with
  | _ k ih =>
    have hv : (s.bracketed n .status).EndsOk u := he.of_carries h.carries_bracketed
    obtain ⟨hdone, hsame⟩ := State.bracketed_status_tells hc n
    cases hb : busy (s.bracketed n .status).status with
    | false =>
      have hend := hv.after (State.leadsTo_pollReady h.bracketed_async (by simp) h.microAt_test hb)
      rw [hend.eq_of_idle rfl, ← hdone hb]
      rfl
    | true =>
      cases hr : s.params.maxPolls.reached (s.pollcnt + 1) with
      | true =>
        have hend := hv.after (State.leadsTo_pollTimeout h.bracketed_async (by simp) h.microAt_test hb
          (by simpa using hr) rfl)
        exact absurd hend.no_error (by simp)
      | false =>
        have hagain := hv.after (h.goes_again hb hr)
        have hchip : (s.polledAgain n).chip = s.chip.beginBracket := hsame hb
        have hlonger : s.trace.length < (s.polledAgain n).trace.length := by
          obtain ⟨r0, htrace⟩ := s.bracketed_status n
          simp [htrace, pollEvents, bracketEvents]
        have := State.leadsTo_trace_length hagain.runs
        rw [ih _ (by omega) h.again hagain (by rw [hchip]; exact hc) rfl, hchip, State.polledAgain_params,
          Chip.complete_beginBracket]
        rfl

/-- Polls that end without an error end with the chip ready. -/
theorem State.AtPolls.ends_with_chip {s u : State} {n : Nat} (h : s.AtPolls n) (he : s.EndsOk u)
    (hc : s.chip.conforms = true) :
    u.Ready ∧ ∀ x, u.chip.byteAt x = (s.chip.complete s.params).byteAt x := by
  obtain ⟨hready, hconf⟩ := Chip.complete_not_busy s.params hc
  have hu := he.after he.runs
  have hchip := h.chip_ends he hc
  exact ⟨⟨he.idle, hu.async, hu.host, by rw [hchip]; exact hconf, by rw [hchip]; exact hready⟩, fun x => by
    rw [hchip]; rfl⟩

/-! ### The chip when the polls begin -/

/-- The chip at the end of a Write Enable bracket (R71). -/
def Chip.enabled (c : Chip) : Chip := { c with wel := true, rx := [], cut := false }

section
variable {t : State} (hc : t.chip.conforms = true) (hb : t.chip.cbusy = false)
include hc hb

theorem State.bracketed_enabled (n : Nat) : (t.bracketed n .writeEnable).chip = t.chip.enabled := by
  rw [State.bracketed_chip t n (by simp), State.chipAtCall_ready hc hb]
  exact (writeEnableSetsTheLatch t.params t.chip hc).1 hb

/-- When a sector_erase polls, the chip has seen Write Enable and the bracket of the frame (R193). -/
theorem State.erasePolls_chip : t.erasePolls.chip =
    (t.chip.enabled.beginBracket.receive t.params (0x20#8 :: addr3 t.addr.toNat)).endBracket t.params := by
  have henabled := State.bracketed_enabled hc hb 0
  have hready := State.chipAtCall_ready (s := t.bracketed 0 .writeEnable) (by rw [henabled]; exact hc)
    (by rw [henabled]; exact hb)
  have hsent := State.bracketed_chip (t.bracketed 0 .writeEnable) 7 (c := .eraseFrame) (by simp)
  rw [hready, henabled, State.bracketed_params] at hsent
  exact hsent

/-- When a page_program polls, the chip has seen Write Enable and the bracket of the frame and PAGEBUF (R194). -/
theorem State.programPolls_chip : t.programPolls.chip =
    ((t.chip.enabled.beginBracket.receive t.params (0x02#8 :: addr3 t.addr.toNat)).receive t.params
      t.pagebuf).endBracket t.params := by
  have henabled := State.bracketed_enabled (t := t.advance) hc hb 1
  have hready : (t.advance.bracketed 1 .writeEnable).chip.cbusy = false := by rw [henabled]; exact hb
  have hsecond := State.chipAtCall_afterFrame (c := .programFrame) (by rw [henabled]; exact hc) hready
    (Chip.breaks_command hready (by decide) _) 8
  have hdata := State.called_chip (s := ((t.advance.bracketed 1 .writeEnable).opened 8).called .programFrame)
    (by simp) .programData
  rw [hsecond, henabled] at hdata
  have hsends : Call.sends (t.advance.bracketed 1 .writeEnable) .programFrame = 0x02#8 :: addr3 t.addr.toNat := by
    simp [Call.sends, frame, opPageProgram]
  rw [hsends] at hdata
  simp [State.programPolls, State.clearPolls, hdata, Call.sends]
end

/-! ### Erase, program and read with a ready chip -/

section
variable {s u : State} (hs : s.Ready)
include hs

/-- A sector_erase inside the contract that ends `OK` fills its sector with 0xFF, and changes no other byte (R72). -/
theorem State.Ready.erased {a l : Nat} (ha : a < 2 ^ 24) (hal : a % s.params.sectorSize = 0)
    (hcap : a + s.params.sectorSize ≤ s.params.capacity) (h : s.completes (.sectorErase a l) u) (hok : u.err = .ok) :
    u.Ready ∧ u.params = s.params ∧
      ∀ x, u.chip.byteAt x = if a ≤ x ∧ x < a + s.params.sectorSize then 0xFF#8 else s.chip.byteAt x := by
  let t := s.taken ⟨.sectorErase, a, l, []⟩
  have he : t.EndsOk u := State.endsOk_of_completes hs.async hs.host hs.idle rfl h hok
  have hpolls := he.of_carries (State.carries_erasePolls he.async rfl rfl (by simp [t]))
  have hchip := State.erasePolls_chip (t := t) hs.conforms hs.ready
  rw [State.taken_addr, addr3_truncAddr] at hchip
  obtain ⟨hconf, -, -, -, -, -, hbytes⟩ :=
    eraseFillsItsSector s.params s.chip.enabled a hs.conforms rfl hs.ready ha hal hcap
  obtain ⟨hu, hends⟩ :=
    (State.atPolls_erasePolls he.async rfl rfl).ends_with_chip hpolls (by rw [hchip]; exact hconf)
  refine ⟨hu, State.leadsTo_params (s := t) he.runs, fun x => ?_⟩
  rw [hends, hchip, State.erasePolls_params]
  exact hbytes x

/-- A page_program inside the contract that ends `OK` leaves old AND new in its page (R73). -/
theorem State.Ready.programmed {a : Nat} {d : List Byte} (hwidth : 256 < 2 ^ s.params.lenWidth) (ha : a < 2 ^ 24)
    (hal : a % 256 = 0) (hcap : a + 256 ≤ s.params.capacity) (hd : d.length = 256)
    (h : s.completes (.pageProgram a 256 d) u) (hok : u.err = .ok) :
    u.Ready ∧ u.params = s.params ∧
      ∀ i < 256, u.chip.byteAt (a + i) = s.chip.byteAt (a + i) &&& d.getD i 0x00#8 := by
  let t := s.taken ⟨.pageProgram, a, 256, d⟩
  have he : t.EndsOk u := State.endsOk_of_completes hs.async hs.host hs.idle rfl h hok
  have hpolls := he.of_carries
    (State.carries_programPolls he.async rfl rfl (by simp [t]) (Nat.mod_eq_of_lt hwidth))
  have hpage : t.pagebuf = d := acceptPage_program hwidth hd s.pagebuf
  have hchip := State.programPolls_chip (t := t) hs.conforms hs.ready
  rw [hpage, State.taken_addr, addr3_truncAddr] at hchip
  obtain ⟨hconf, -, -, -, -, -, hbytes, -⟩ :=
    programClearsBitsOfItsPage s.params s.chip.enabled a d hs.conforms rfl hs.ready ha hal hcap hd
  obtain ⟨hu, hends⟩ :=
    (State.atPolls_programPolls he.async rfl rfl).ends_with_chip hpolls (by rw [hchip]; exact hconf)
  refine ⟨hu, State.leadsTo_params (s := t) he.runs, fun i hi => ?_⟩
  rw [hends, hchip, State.programPolls_params]
  exact hbytes i hi

/-- A read inside the contract that ends `OK` returns the bytes of the array (R74). -/
theorem State.Ready.read {a len : Nat} (hwidth : len < 2 ^ s.params.lenWidth) (ha : a < 2 ^ 24)
    (hlt : a < s.params.capacity) (hcap : a + len ≤ s.params.capacity) (h : s.completes (.read a len) u)
    (hok : u.err = .ok) : u.rsp = some ⟨.ok, s.chip.memRead a len, none⟩ := by
  let t := s.taken ⟨.read, a, len, []⟩
  have he : t.EndsOk u := State.endsOk_of_completes hs.async hs.host hs.idle rfl h hok
  have hlen : t.len = len := Nat.mod_eq_of_lt hwidth
  have hend := (he.of_carries (State.carries_readBracketed he.async rfl rfl (by simp [t]))).after
    (State.leadsTo_respond (by simpa [t] using hs.async) (by simp) (by simp [t]; rfl))
  have hdata : t.readData = s.chip.memRead a len := by
    have haddr : t.addr.toNat = a := (BitVec.toNat_ofNat a 24).trans (Nat.mod_eq_of_lt ha)
    rw [State.readData_eq (t := t) hs.conforms hs.ready (by rw [haddr]; exact hlt)
      (by rw [haddr, hlen]; exact hcap), haddr, hlen]
    rfl
  have hop : t.op = .read ∧ t.err = .ok := ⟨rfl, rfl⟩
  rw [hend.eq_of_idle rfl]
  simp [State.response, State.readBracketed_rdata t rfl, hdata, hop]
end

/-! ### The two statements of R199 -/

/-- Settles O34: the erase fills the sector with 0xFF, and the read returns the array. -/
theorem erasedSectorReadsAllOnes : Obligations.ErasedSectorReadsAllOnes := by
  intro s u w sector a l len hinv hp ha hh hc hb hal hle hlt hend hcap hwidth herase huok hread hwok
  obtain ⟨-, -, hspace⟩ := hinv.params
  have hspace : s.params.capacity ≤ 2 ^ 24 := hspace
  obtain ⟨hu, hparams, hbytes⟩ := State.Ready.erased ⟨hp, ha, hh, hc, hb⟩ (by omega) hal hcap herase huok
  rw [hu.read (by rwa [hparams]) (by omega) (by rw [hparams]; omega) (by rw [hparams]; omega) hread hwok]
  have hones : u.chip.memRead a len = List.replicate len 0xFF#8 := by
    refine List.eq_replicate_iff.2 ⟨by simp, fun b hmem => ?_⟩
    obtain ⟨i, hi, rfl⟩ := List.mem_map.1 hmem
    rw [hbytes, if_pos (by have := List.mem_range.1 hi; omega)]
  rw [hones]

/-- Settles O33: the page is 0xFF after the erase, so the program leaves its own bytes, and the read returns
them. -/
theorem programmedPageReadsBack : Obligations.ProgrammedPageReadsBack := by
  intro s u v w sector page l len data hinv hp ha hh hc hb hal hle hin hcap hpal hdata hlen herase huok hprog hvok
    hread hwok
  obtain ⟨-, hwidth, hspace⟩ := hinv.params
  have hpage := page_fits hwidth
  have hspace : s.params.capacity ≤ 2 ^ 24 := hspace
  obtain ⟨hu, huparams, herased⟩ := State.Ready.erased ⟨hp, ha, hh, hc, hb⟩ (by omega) hal hcap herase huok
  obtain ⟨hv, hvparams, hprogrammed⟩ := hu.programmed (by rwa [huparams]) (by omega) hpal
    (by rw [huparams]; omega) hdata hprog hvok
  rw [hv.read (by rw [hvparams, huparams]; omega) (by omega) (by rw [hvparams, huparams]; omega)
    (by rw [hvparams, huparams]; omega) hread hwok]
  have hback : v.chip.memRead page len = data.take len := by
    refine List.ext_getElem (by simp [hdata, hlen]) fun i hi _ => ?_
    have hi : i < len := by simpa using hi
    simp only [Chip.memRead, List.getElem_map, List.getElem_range, List.getElem_take]
    rw [hprogrammed i (by omega), herased, if_pos (by omega), List.getD_eq_getElem _ _ (by omega)]
    exact BitVec.allOnes_and
  rw [hback]

end Sys2Proof.Machine
end

section
/-! PROOFS. Errors (spec/60_exceptions.md): the error exit from raise to response (R226), the faulted wire
commands (R222), which step raises which error (R220 to R224), and the length check before any bus activity
(R223). -/

namespace Sys2Proof.Machine

open Config

/-! ### The error exit -/

/-- The state once the `deselect()` that begins where control stands is done (R131), in a micro-program or in
the error exit. -/
def State.deselected (s : State) : State := (s.delayed.setSelect .high).advance.delayed

section
variable (s : State)
@[simp] theorem State.deselected_op : s.deselected.op = s.op := rfl
@[simp] theorem State.deselected_addr : s.deselected.addr = s.addr := rfl
@[simp] theorem State.deselected_len : s.deselected.len = s.len := rfl
@[simp] theorem State.deselected_pagebuf : s.deselected.pagebuf = s.pagebuf := rfl
@[simp] theorem State.deselected_seq : s.deselected.seq = s.seq.next.next.next := rfl
@[simp] theorem State.deselected_cs : s.deselected.cs = .high := rfl
@[simp] theorem State.deselected_status : s.deselected.status = s.status := rfl
@[simp] theorem State.deselected_pollcnt : s.deselected.pollcnt = s.pollcnt := rfl
@[simp] theorem State.deselected_err : s.deselected.err = s.err := rfl
@[simp] theorem State.deselected_chip : s.deselected.chip = s.chip.endBracket s.params := rfl

theorem State.deselected_phase_ne_idle : s.deselected.phase ≠ .idle := phaseAt_ne_idle _ _

@[simp] theorem State.deselected_trace :
    s.deselected.trace = s.trace ++ deselectEvents s.params.guardCycles := by
  simp [State.deselected, State.delayed, deselectEvents]
end

theorem State.leadsTo_deselected {s : State} (ha : s.async = []) (hp : s.phase ≠ .idle)
    (h0 : microAt s.op s.seq = some .delay) (h1 : microAt s.op s.seq.next = some .csHigh)
    (h2 : microAt s.op s.seq.next.next = some .delay) : s.leadsTo s.deselected := by
  have hfirst : s.leadsTo s.delayed := State.leadsTo_delayed ha hp h0
  have hline : s.delayed.leadsTo (s.delayed.setSelect .high).advance :=
    State.leadsTo_csHigh ha (phaseAt_ne_idle _ _) h1
  have hsecond : (s.delayed.setSelect .high).advance.leadsTo s.deselected :=
    State.leadsTo_delayed ha (phaseAt_ne_idle _ _) h2
  exact State.leadsTo_trans hfirst (State.leadsTo_trans hline hsecond)

/-- The response of an error carries no data and no status (R41, R226). -/
theorem State.response_error {s : State} {e : Err} (h : s.err = e) (he : e ≠ .ok) :
    s.response = ⟨e, [], none⟩ := by
  simp [State.response, h, he]

/-- With the line low an error runs through E0 to E3. -/
theorem State.leadsTo_exit_low {s : State} (ha : s.async = []) (hcs : s.cs = .low) (e : Err) :
    (s.raise e).leadsTo (s.raise e).deselected.respond := by
  have hseq : (s.raise e).seq = .exit 0 := by simp [State.selected, hcs]
  have hclose : (s.raise e).leadsTo (s.raise e).deselected :=
    State.leadsTo_deselected ha (by simp) (by rw [hseq]; rfl) (by rw [hseq]; rfl) (by rw [hseq]; rfl)
  exact State.leadsTo_trans hclose (State.leadsTo_respond ha (State.deselected_phase_ne_idle _)
    (by rw [State.deselected_seq, hseq]; rfl))

/-- With the line high an error goes to its response at once. -/
theorem State.leadsTo_exit_high {s : State} (ha : s.async = []) (hcs : s.cs = .high) (e : Err) :
    (s.raise e).leadsTo (s.raise e).respond := by
  have hseq : (s.raise e).seq = .exit 3 := by simp [State.selected, hcs]
  exact State.leadsTo_respond ha (by simp) (by rw [hseq]; rfl)

/-- Settles O23, by the level of the line when the error is raised. -/
theorem errorExitClosesTheBracket : Obligations.ErrorExitClosesTheBracket := by
  intro s e ha he
  cases hcs : s.cs with
  | low =>
    have hr : (s.raise e).deselected.response = ⟨e, [], none⟩ := State.response_error (by simp) he
    exact ⟨_, State.leadsTo_exit_low ha hcs e, by simp [hr, State.sameLatches]⟩
  | high =>
    have hr : (s.raise e).response = ⟨e, [], none⟩ := State.response_error (by simp) he
    exact ⟨_, State.leadsTo_exit_high ha hcs e, by simp [hr, hcs, State.sameLatches]⟩

/-! ### Bus faults -/

/-- A call the transport faults, and the error exit entered, is a faulted call. -/
theorem State.faulted_faultedCall (s : State) (tx : List Byte) :
    s.faultedCall ((s.faulted tx).raise .busFault) tx := by
  refine ⟨rfl, rfl, ?_, rfl, rfl, rfl, rfl, ⟨rfl, rfl, rfl, rfl⟩, ⟨rfl, rfl, rfl, rfl, rfl, rfl⟩, fun hcs => ?_⟩
  · cases hcs : s.cs <;> simp [State.selected, hcs]
  · simp [State.selected, hcs]

/-- A wire command that makes one call ends in that call's fault, whatever it would have done next. -/
theorem faultedCall_of_xfer {s : State} (hf : (s.answerAt 0).fault = true) {i : Instr} {tx : List Byte}
    {k : List Byte → State → State} (hi : exec i s = .next (s.xfer tx k)) :
    ∃ t, exec i s = .next t ∧ s.faultedCall t tx :=
  ⟨_, by rw [hi, State.xfer_fault hf], State.faulted_faultedCall s tx⟩

/-- Settles O16: each wire command is one call, of its frame or in the data phase of its data. -/
theorem busFaultEndsEveryWireCommand : Obligations.BusFaultEndsEveryWireCommand := by
  intro s a hf
  refine ⟨faultedCall_of_xfer hf rfl, faultedCall_of_xfer hf rfl, faultedCall_of_xfer hf rfl, ?_,
    faultedCall_of_xfer hf (exec_pageProgramCmd s a)⟩
  cases hd : s.inDataPhase with
  | false => exact faultedCall_of_xfer hf (exec_readCmd_frame hd a)
  | true => exact faultedCall_of_xfer hf (exec_readCmd_data hd a)

/-! ### Which step raises which error -/

/-- What ERR can be after a micro-operation: as it was, or the error of the one check that raises it
(R222, R223, R224). -/
theorem MicroOp.run_err_cases (m : MicroOp) (s : State) :
    (m.run s).err = s.err ∨ (m.run s).err = .busFault ∨ (m = .lenCheck ∧ (m.run s).err = .invalidLength) ∨
      (s.params.maxPolls.reached (s.pollcnt + 1) = true ∧ (m.run s).err = .timeout) := by
  cases m with
  | delay =>
    rw [MicroOp.run, State.delayCycle]
    split <;> exact .inl rfl
  | csLow => exact .inl rfl
  | csHigh => exact .inl rfl
  | xfer c => rcases MicroOp.run_xfer_cases c s with hx | hx <;> rw [hx] <;> simp
  | lenCheck =>
    rw [MicroOp.run, State.lenCheck]
    split <;> simp
  | clearPolls => exact .inl rfl
  | pollTest back =>
    cases hb : busy s.status with
    | false => exact .inl (by rw [MicroOp.run, State.pollTest_ready hb]; rfl)
    | true =>
      cases hr : s.params.maxPolls.reached (s.pollcnt + 1) with
      | false => exact .inl (by rw [MicroOp.run, State.pollTest_again hb hr]; rfl)
      | true => exact .inr (.inr (.inr ⟨rfl, by rw [MicroOp.run, State.pollTest_timeout hb hr]; rfl⟩))
  | respond => exact .inl rfl

/-- Acceptance clears ERR or, while an operation runs, leaves it (R40, R42). -/
theorem State.accept_err (r : Request) (s : State) : (s.accept r).err = s.err ∨ (s.accept r).err = .ok := by
  by_cases hp : s.phase = .idle
  · exact .inr (by rw [State.accept_idle hp]; rfl)
  · exact .inl (by rw [State.accept_running hp])

/-- What ERR can be after a step: InvalidLength is raised in a page_program only, Timeout at the bound only. -/
theorem step_err_cases {s t : State} (h : step s = .next t) :
    t.err = s.err ∨ t.err = .ok ∨ t.err = .busFault ∨ (s.op = .pageProgram ∧ t.err = .invalidLength) ∨
      (s.params.maxPolls.reached (s.pollcnt + 1) = true ∧ t.err = .timeout) := by
  cases stepCase_of_step h with
  | waits host async => exact .inl rfl
  | accepts host async r => exact (State.accept_err r (s.withInputs host async)).imp_right .inl
  | runs async m hp hm =>
    rcases m.run_err_cases (s.withInputs s.host async) with he | he | ⟨rfl, he⟩ | ht
    · exact .inl he
    · exact .inr (.inr (.inl he))
    · exact .inr (.inr (.inr (.inl ⟨(microAt_lenCheck hm).1, he⟩)))
    · exact .inr (.inr (.inr (.inr ht)))
  | completes async => exact .inl rfl
  | resets rest _ => exact .inr (.inl rfl)

/-- Settles O24: a step raises Timeout at the bound only, and `inf` is never reached. -/
theorem unboundedPollingNeverTimesOut : Obligations.UnboundedPollingNeverTimesOut := by
  intro s t hinf he h ht
  have hcase : .timeout = s.err ∨ s.params.maxPolls.reached (s.pollcnt + 1) = true := by
    simpa [ht] using step_err_cases h
  rcases hcase with hs | hbound
  · exact he hs.symm
  · rw [hinf] at hbound
    cases hbound

/-! ### The length check -/

/-- A program request of another length than one Page raises InvalidLength in the first step after its
acceptance (R223). -/
theorem State.leadsTo_invalidLength {s : State} {r : Request} (ha : s.async = []) (hop : r.op = .pageProgram)
    (hlen : portLen s.params r.len ≠ pageSize) :
    (s.taken r).leadsTo ((s.taken r).raise .invalidLength) := by
  have hm : microAt (s.taken r).op (s.taken r).seq = some .lenCheck := by
    rw [State.taken_op, hop]
    rfl
  refine State.leadsTo_one ?_
  rw [step_running (s := s.taken r) ha (by simp), microStep_lenCheck hm, State.lenCheck_other (by exact hlen)]

/-- Settles O22: acceptance, the length check, and the error exit with the line high; and a step raises
InvalidLength at a length check only. -/
theorem invalidLengthComesBeforeBusActivity : Obligations.InvalidLengthComesBeforeBusActivity := by
  refine ⟨fun s a l payload hp hcs ha hwf hl => ?_, fun s t h ht => ?_⟩
  · simp only [WellFormed, Bool.and_eq_true, decide_eq_true_eq] at hwf
    obtain ⟨hfit, hpayload⟩ := hwf
    have hwidth := len_lt_of_fieldsFit hfit
    let t := s.taken ⟨.pageProgram, a, l, payload⟩
    have hcheck : t.leadsTo (t.raise .invalidLength) :=
      State.leadsTo_invalidLength ha rfl (by rwa [portLen, Nat.mod_eq_of_lt hwidth])
    obtain ⟨u, hexit, hidle, herr, hline, hrsp, htrace, ⟨-, -, -, hpage⟩, -, -, hchip⟩ :=
      errorExitClosesTheBracket t .invalidLength ha (by decide)
    have hhigh : t.cs = .high := hcs
    rw [hhigh, if_neg (by decide)] at htrace hchip
    have hold : t.pagebuf = s.pagebuf := by
      rw [State.taken_pagebuf, acceptPage_program hwidth hpayload, if_neg hl]
    refine ⟨u, State.completes_of_taken hp rfl (State.leadsTo_trans hcheck hexit) hidle, hrsp, herr,
      hpage.trans hold, hline, hchip, ?_⟩
    simp [htrace, t]
  · have hcase : .invalidLength = s.err ∨ s.op = .pageProgram := by simpa [ht] using step_err_cases h
    exact hcase.imp_left Eq.symm

end Sys2Proof.Machine
end

section
/-! PROOFS. The reset input (spec/70_reset_and_hazards.md R260, R261, R267): the step it makes, and what it leaves
of the chip, one lemma per case (log 16). -/

namespace Sys2Proof.Machine

open Config

/-- A reset that is due is the whole step (R260). -/
theorem step_resetInput {s : State} {rest : List Timed} (h : s.async = ⟨0, .reset⟩ :: rest) :
    step s = .next (s.withInputs s.host rest).resetInput := by
  simp only [step, stepMachine, h, outsideStep, State.withInputs]

/-- A destructive command that has still to be sent is not pending. -/
theorem not_commandPending_of_commandDue {op : Op} {q : Seq} (h : commandDue op q = true) :
    commandPending op q = false := by
  cases q with
  | exit n => rfl
  | main n =>
    cases op <;> simp only [commandDue, commandPending, Bool.and_eq_true, Bool.and_eq_false_iff, decide_eq_true_eq,
      decide_eq_false_iff_not, Bool.false_eq_true] at h ⊢ <;> omega

/-- The first byte of the units that contain `a`, as a bound: `a` itself where it is aligned, else any byte less
than `n` below it (R72). -/
theorem unitFirst_le_iff {a n x : Nat} : unitFirst a n ≤ x ↔ if a % n = 0 then a ≤ x else a < x + n := by
  unfold unitFirst
  split
  · exact Iff.rfl
  · omega

/-! ### The chip -/

/-- A transaction cut short leaves the contract (R261, R77). -/
theorem State.chipAfterReset_of_low {s : State} (hcs : s.cs = .low) : s.chipAfterReset.conforms = false := by
  rw [State.chipAfterReset, if_pos ((State.selected_eq_true s).2 hcs)]
  rfl

/-- A busy chip, or one with a destructive command pending, leaves the contract (93 U16). -/
theorem State.chipAfterReset_of_pending {s : State}
    (h : s.chip.cbusy = true ∨ s.phase ≠ .idle ∧ commandPending s.op s.seq = true) :
    s.chipAfterReset.conforms = false := by
  have hlost : (s.chip.cbusy || (!s.idle && commandPending s.op s.seq)) = true := by simpa using h
  rw [State.chipAfterReset, if_pos hlost]
  split <;> rfl

/-- With the line high, the chip ready and no destructive command due or pending, the reset leaves the chip
alone (R261). -/
theorem State.chipAfterReset_of_quiet {s : State} (hcs : s.cs = .high) (hb : s.chip.cbusy = false)
    (h : s.phase ≠ .idle → commandPending s.op s.seq = false ∧ commandDue s.op s.seq = false) :
    s.chipAfterReset = s.chip := by
  rw [State.chipAfterReset, if_neg (by simp [hcs])]
  by_cases hp : s.phase = .idle
  · simp [hb, (State.idle_eq_true s).2 hp]
  · obtain ⟨hpending, hdue⟩ := h hp
    simp [hb, hpending, hdue]

/-- A destructive operation cut short before its command was sent spoils its unit (R267; log 16). -/
theorem State.chipAfterReset_of_due {s : State} (hcs : s.cs = .high) (hb : s.chip.cbusy = false)
    (hp : s.phase ≠ .idle) (hdue : commandDue s.op s.seq = true) {a n : Nat} (hu : s.unit = some (a, n)) :
    s.chipAfterReset = s.chip.spoil s.params a n := by
  rw [State.chipAfterReset, if_neg (by simp [hcs]), if_neg (by simp [hb, not_commandPending_of_commandDue hdue]),
    if_pos (by simp [hp, hdue]), State.spoiledChip, hu]

/-- Settles O44: the step is the reset input, which gives the registers their values at rest; the chip by the
cases of `chipAfterReset`. -/
theorem resetInputPutsTheBlockAtRest : Obligations.ResetInputPutsTheBlockAtRest := by
  intro s rest hd
  refine ⟨_, step_resetInput hd, rfl, rfl, rfl, rfl, rfl, rfl, rfl, rfl, rfl, rfl, rfl, rfl, rfl,
    State.chipAfterReset_of_low, State.chipAfterReset_of_pending, State.chipAfterReset_of_quiet, ?_⟩
  intro a n hcs hb hp hdue hu
  have hchip : (s.withInputs s.host rest).resetInput.chip = s.chip.spoil s.params a n :=
    State.chipAfterReset_of_due hcs hb hp hdue hu
  rw [hchip]
  refine ⟨rfl, rfl, hb, fun x => ?_⟩
  simp only [Chip.spoil_byteAt, unitFirst_le_iff]

end Sys2Proof.Machine
end
